-- ==== Sys2Proof/Word.lean ====
section
/-!
DEFINITION. The word types of BWCALC (00_scope.md R7 `W` = 64, R9; 30_encoding.md R90: a command is 32 bits).
-/

namespace Sys2Proof

/-- One byte of the MMIO window (20_memory.md R71). -/
abbrev Byte := BitVec 8

/-- A command word, a control register or one half of a 64-bit slot (20_memory.md R72). -/
abbrev W32 := BitVec 32

/-- An FXU register or a record slot: the raw word of 10_state.md R21. -/
abbrev W64 := BitVec 64

end Sys2Proof
end

