-- ==== Sys2Proof/Syntax.lean ====
section
/-!
DEFINITION. The commands of BWCALC: one constructor of Instr per row of spec/opcode_table.json (30_encoding.md R94,
R100), and the pseudo-instructions of R107.
-/

namespace Sys2Proof

/-- A register number, FR0 to FR15 (30_encoding.md R91, R92). -/
abbrev Reg := Fin 16

/-- Which unit a command belongs to, that is which register it is written to: FXU_CMD or BWE_CTRL (R90). -/
inductive CmdUnit
  | fxu | bwe
  deriving DecidableEq, Repr

/-- The commands. Field values outside the 4-bit and 16-bit ranges of R91 and R100 cannot be written. -/
inductive Instr
  | add (rd rs1 rs2 : Reg)
  | sub (rd rs1 rs2 : Reg)
  | mul (rd rs1 rs2 : Reg)
  | div (rd rs1 rs2 : Reg)
  | mod (rd rs1 rs2 : Reg)
  | neg (rd rs1 : Reg)
  | abs (rd rs1 : Reg)
  | floor (rd rs1 rs2 : Reg)
  | ceil (rd rs1 rs2 : Reg)
  | fromint (rd rs1 : Reg)
  | fromfrac (rd rs1 rs2 : Reg)
  | toint (rd rs1 : Reg)
  | min (rd rs1 rs2 : Reg)
  | max (rd rs1 rs2 : Reg)
  | clt (rd rs1 rs2 : Reg)
  | cle (rd rs1 rs2 : Reg)
  | ceq (rd rs1 rs2 : Reg)
  | cne (rd rs1 rs2 : Reg)
  | cgt (rd rs1 rs2 : Reg)
  | cge (rd rs1 rs2 : Reg)
  | ldi (rd : Reg) (imm16 : BitVec 16)
  | ldih (rd : Reg) (imm16 : BitVec 16)
  | mov (rd rs1 : Reg)
  | nop
  | bweNop
  | bweInit (version : BitVec 4) (stoneyRev : Bool)
  | bweCalc
  | bweBwcalcs
  deriving DecidableEq, Repr

/-- The unit of a command (R94, R100). -/
def Instr.unit : Instr → CmdUnit
  | .add _ _ _ => .fxu
  | .sub _ _ _ => .fxu
  | .mul _ _ _ => .fxu
  | .div _ _ _ => .fxu
  | .mod _ _ _ => .fxu
  | .neg _ _ => .fxu
  | .abs _ _ => .fxu
  | .floor _ _ _ => .fxu
  | .ceil _ _ _ => .fxu
  | .fromint _ _ => .fxu
  | .fromfrac _ _ _ => .fxu
  | .toint _ _ => .fxu
  | .min _ _ _ => .fxu
  | .max _ _ _ => .fxu
  | .clt _ _ _ => .fxu
  | .cle _ _ _ => .fxu
  | .ceq _ _ _ => .fxu
  | .cne _ _ _ => .fxu
  | .cgt _ _ _ => .fxu
  | .cge _ _ _ => .fxu
  | .ldi _ _ => .fxu
  | .ldih _ _ => .fxu
  | .mov _ _ => .fxu
  | .nop => .fxu
  | .bweNop => .bwe
  | .bweInit _ _ => .bwe
  | .bweCalc => .bwe
  | .bweBwcalcs => .bwe

/-- The pseudo-instructions of R107. `li64Short` and `lfxShort` are the one-command forms that R107 gives for a
value in -32768..32767. -/
inductive Pseudo
  | li64Short (rd : Reg) (v : Int)
  | li64 (rd : Reg) (v : W64)
  | lfxShort (rd : Reg) (n : Int)
  | lfx (rd : Reg) (n : W64)
  | lfrac (rd : Reg) (p q : W64) (ft : Reg)
  | clr (rd : Reg)
  | cmtn (rd rs1 rs2 : Reg)
  | cgtn (rd rs1 rs2 : Reg)
  deriving DecidableEq, Repr

end Sys2Proof
end

