-- ==== Sys2Proof/WellFormed.lean ====
section
/-!
DEFINITION. When a command word and a pseudo-instruction are well formed: the fields that 30_encoding.md R91, R94 and
R100 require to be zero, and the conditions of R107. (An Instr is well formed by its types: every field of it takes
exactly the values its 4-bit or 16-bit field admits.)
-/

namespace Sys2Proof

/-- The formats of R91, with the one-source form of R format and the word of NOP apart. -/
inductive Format
  /-- R format with rd, rs1 and rs2. -/
  | r3
  /-- R format with rd and rs1; rs2 must be 0. -/
  | r2
  /-- I format. -/
  | imm
  /-- NOP: rd, rs1 and rs2 must be 0 as well. -/
  | none
  deriving DecidableEq, Repr

/-- `v[hi:lo]` with `n = hi - lo + 1` (00_scope.md R9). -/
def field (w : W32) (lo n : Nat) : BitVec n := w.extractLsb' lo n

/-- The fields an FXU word of a format must have zero (R91, the masks of R94). -/
def Format.zeroFieldsOk : Format → W32 → Bool
  | .r3, w => field w 0 14 == 0
  | .r2, w => field w 0 18 == 0
  | .imm, w => field w 16 6 == 0
  | .none, w => field w 0 26 == 0

/-- Bits 31:9 of a BWE word must be zero (R100). -/
def bweHighBitsOk (w : W32) : Bool := field w 9 23 == 0

/-- VERSION and STONEY_REV must be zero for every CMD but INIT (R100). -/
def bweInitFieldsZero (w : W32) : Bool := field w 4 5 == 0

/-- The condition R107 puts on a pseudo-instruction. -/
def Pseudo.wellFormed : Pseudo → Bool
  | .li64Short _ v => decide (-32768 ≤ v ∧ v ≤ 32767)
  | .li64 _ _ => true
  | .lfxShort _ n => decide (-32768 ≤ n ∧ n ≤ 32767)
  | .lfx _ _ => true
  | .lfrac rd _ _ ft => ft != rd
  | .clr _ => true
  | .cmtn _ _ _ => true
  | .cgtn _ _ _ => true

end Sys2Proof
end

