-- ==== Sys2Proof/Decode.lean ====
section
/-!
DEFINITION. Decoding and encoding of command words (30_encoding.md). Decoding is total (R105): every 32-bit word is a
command or is rejected under a name of `Illegal`.
-/

namespace Sys2Proof

/-- Why a word is no command (R101, R104). The machine raises ILL for each of them. -/
inductive Illegal
  /-- R104: an opcode marked reserved. -/
  | reservedOpcode
  /-- R104: a nonzero bit in a field the FXU row requires to be zero. -/
  | nonzeroZeroField
  /-- R101: CMD in 4..15. -/
  | reservedCmd
  /-- R101: a nonzero field the BWE row requires to be zero. -/
  | nonzeroBweField
  deriving DecidableEq, Repr

/-! ## Fields -/

/-- The 6-bit opcode, bits 31:26 (R91). -/
def opField (w : W32) : BitVec 6 := field w 26 6

/-- The register number in the four bits from `lo` (R91). -/
def regField (w : W32) (lo : Nat) : Reg := (field w lo 4).toFin

/-- rd, bits 25:22. -/
def rdField (w : W32) : Reg := regField w 22

/-- rs1, bits 21:18. -/
def rs1Field (w : W32) : Reg := regField w 18

/-- rs2, bits 17:14. -/
def rs2Field (w : W32) : Reg := regField w 14

/-- imm16, bits 15:0. -/
def immField (w : W32) : BitVec 16 := field w 0 16

/-! ## The decoders -/

/-- The command of a word whose row has this format, if the row's zero fields are zero. -/
def checkedWord (f : Format) (w : W32) (i : Instr) : Except Illegal Instr :=
  if f.zeroFieldsOk w then .ok i else .error .nonzeroZeroField

/-- A three-register row. -/
def decodeR3 (w : W32) (mk : Reg → Reg → Reg → Instr) : Except Illegal Instr :=
  checkedWord .r3 w (mk (rdField w) (rs1Field w) (rs2Field w))

/-- A one-source row. -/
def decodeR2 (w : W32) (mk : Reg → Reg → Instr) : Except Illegal Instr :=
  checkedWord .r2 w (mk (rdField w) (rs1Field w))

/-- An immediate row. -/
def decodeImm (w : W32) (mk : Reg → BitVec 16 → Instr) : Except Illegal Instr :=
  checkedWord .imm w (mk (rdField w) (immField w))

/-- A word written to FXU_CMD (R94, R104). -/
def decodeFxu (w : W32) : Except Illegal Instr :=
  match (opField w).toNat with
  | 0x01 => decodeR3 w .add
  | 0x02 => decodeR3 w .sub
  | 0x03 => decodeR3 w .mul
  | 0x04 => decodeR3 w .div
  | 0x05 => decodeR3 w .mod
  | 0x06 => decodeR2 w .neg
  | 0x07 => decodeR2 w .abs
  | 0x08 => decodeR3 w .floor
  | 0x09 => decodeR3 w .ceil
  | 0x0A => decodeR2 w .fromint
  | 0x0B => decodeR3 w .fromfrac
  | 0x0C => decodeR2 w .toint
  | 0x0D => decodeR3 w .min
  | 0x0E => decodeR3 w .max
  | 0x10 => decodeR3 w .clt
  | 0x11 => decodeR3 w .cle
  | 0x12 => decodeR3 w .ceq
  | 0x13 => decodeR3 w .cne
  | 0x14 => decodeR3 w .cgt
  | 0x15 => decodeR3 w .cge
  | 0x18 => decodeImm w .ldi
  | 0x19 => decodeImm w .ldih
  | 0x1A => decodeR2 w .mov
  | 0x1B => checkedWord .none w .nop
  | _ => .error .reservedOpcode

/-- CMD, bits 3:0 of a BWE word (R100). -/
def cmdField (w : W32) : BitVec 4 := field w 0 4

/-- VERSION, bits 7:4 of a BWE word (R100). -/
def versionField (w : W32) : BitVec 4 := field w 4 4

/-- STONEY_REV, bit 8 of a BWE word (R100). -/
def stoneyField (w : W32) : Bool := field w 8 1 == 1

/-- A BWE row other than INIT. -/
def checkedBwe (w : W32) (i : Instr) : Except Illegal Instr :=
  if bweHighBitsOk w && bweInitFieldsZero w then .ok i else .error .nonzeroBweField

/-- A word written to BWE_CTRL (R100, R101). -/
def decodeBwe (w : W32) : Except Illegal Instr :=
  match (cmdField w).toNat with
  | 0 => checkedBwe w .bweNop
  | 1 => if bweHighBitsOk w then .ok (.bweInit (versionField w) (stoneyField w)) else .error .nonzeroBweField
  | 2 => checkedBwe w .bweCalc
  | 3 => checkedBwe w .bweBwcalcs
  | _ => .error .reservedCmd

/-- Decoding: the register written selects which of the two decoders applies (R90). -/
def decode : CmdUnit → W32 → Except Illegal Instr
  | .fxu, w => decodeFxu w
  | .bwe, w => decodeBwe w

/-! ## The encoder -/

/-- The four bits of a register number. -/
def regBits (r : Reg) : BitVec 4 := BitVec.ofFin r

/-- An R-format word with three registers (R91). -/
def encodeR3 (op : BitVec 6) (rd rs1 rs2 : Reg) : W32 := op ++ regBits rd ++ regBits rs1 ++ regBits rs2 ++ 0#14

/-- An R-format word with one source: rs2 and the zero field are 0 (R91). -/
def encodeR2 (op : BitVec 6) (rd rs1 : Reg) : W32 := op ++ regBits rd ++ regBits rs1 ++ 0#18

/-- An I-format word (R91). -/
def encodeImm (op : BitVec 6) (rd : Reg) (imm16 : BitVec 16) : W32 := op ++ regBits rd ++ 0#6 ++ imm16

/-- A BWE word (R100). -/
def encodeBwe (cmd version : BitVec 4) (stoney : Bool) : W32 := 0#23 ++ BitVec.ofBool stoney ++ version ++ cmd

/-- The word of a command (R94, R100). -/
def encode : Instr → W32
  | .add rd rs1 rs2 => encodeR3 0x01 rd rs1 rs2
  | .sub rd rs1 rs2 => encodeR3 0x02 rd rs1 rs2
  | .mul rd rs1 rs2 => encodeR3 0x03 rd rs1 rs2
  | .div rd rs1 rs2 => encodeR3 0x04 rd rs1 rs2
  | .mod rd rs1 rs2 => encodeR3 0x05 rd rs1 rs2
  | .neg rd rs1 => encodeR2 0x06 rd rs1
  | .abs rd rs1 => encodeR2 0x07 rd rs1
  | .floor rd rs1 rs2 => encodeR3 0x08 rd rs1 rs2
  | .ceil rd rs1 rs2 => encodeR3 0x09 rd rs1 rs2
  | .fromint rd rs1 => encodeR2 0x0A rd rs1
  | .fromfrac rd rs1 rs2 => encodeR3 0x0B rd rs1 rs2
  | .toint rd rs1 => encodeR2 0x0C rd rs1
  | .min rd rs1 rs2 => encodeR3 0x0D rd rs1 rs2
  | .max rd rs1 rs2 => encodeR3 0x0E rd rs1 rs2
  | .clt rd rs1 rs2 => encodeR3 0x10 rd rs1 rs2
  | .cle rd rs1 rs2 => encodeR3 0x11 rd rs1 rs2
  | .ceq rd rs1 rs2 => encodeR3 0x12 rd rs1 rs2
  | .cne rd rs1 rs2 => encodeR3 0x13 rd rs1 rs2
  | .cgt rd rs1 rs2 => encodeR3 0x14 rd rs1 rs2
  | .cge rd rs1 rs2 => encodeR3 0x15 rd rs1 rs2
  | .ldi rd imm16 => encodeImm 0x18 rd imm16
  | .ldih rd imm16 => encodeImm 0x19 rd imm16
  | .mov rd rs1 => encodeR2 0x1A rd rs1
  | .nop => 0x6C000000
  | .bweNop => encodeBwe 0 0 false
  | .bweInit version stoneyRev => encodeBwe 1 version stoneyRev
  | .bweCalc => encodeBwe 2 0 false
  | .bweBwcalcs => encodeBwe 3 0 false

/-! ## The opcode maps as tables -/

/-- One row of the opcode maps of R94 and R100. -/
structure OpcodeRow where
  matchWord : W32
  mask : W32
  deriving DecidableEq, Repr

/-- Whether a word is of a row: `(c AND mask) = match` (R94). -/
def OpcodeRow.matches (r : OpcodeRow) (w : W32) : Bool := w &&& r.mask == r.matchWord

/-- The match and mask columns of R94 (FXU) and R100 (BWE), in the order of the tables. -/
def opcodeRows : CmdUnit → List OpcodeRow
  | .fxu =>
    [⟨0x04000000, 0xFC003FFF⟩, ⟨0x08000000, 0xFC003FFF⟩, ⟨0x0C000000, 0xFC003FFF⟩, ⟨0x10000000, 0xFC003FFF⟩,
     ⟨0x14000000, 0xFC003FFF⟩, ⟨0x18000000, 0xFC03FFFF⟩, ⟨0x1C000000, 0xFC03FFFF⟩, ⟨0x20000000, 0xFC003FFF⟩,
     ⟨0x24000000, 0xFC003FFF⟩, ⟨0x28000000, 0xFC03FFFF⟩, ⟨0x2C000000, 0xFC003FFF⟩, ⟨0x30000000, 0xFC03FFFF⟩,
     ⟨0x34000000, 0xFC003FFF⟩, ⟨0x38000000, 0xFC003FFF⟩, ⟨0x40000000, 0xFC003FFF⟩, ⟨0x44000000, 0xFC003FFF⟩,
     ⟨0x48000000, 0xFC003FFF⟩, ⟨0x4C000000, 0xFC003FFF⟩, ⟨0x50000000, 0xFC003FFF⟩, ⟨0x54000000, 0xFC003FFF⟩,
     ⟨0x60000000, 0xFC3F0000⟩, ⟨0x64000000, 0xFC3F0000⟩, ⟨0x68000000, 0xFC03FFFF⟩, ⟨0x6C000000, 0xFFFFFFFF⟩]
  | .bwe =>
    [⟨0x00000000, 0xFFFFFFFF⟩, ⟨0x00000001, 0xFFFFFE0F⟩, ⟨0x00000002, 0xFFFFFFFF⟩, ⟨0x00000003, 0xFFFFFFFF⟩]

/-! ## Pseudo-instructions (R107) -/

/-- The 16 bits of a value in assembler syntax (R106). -/
def immOfInt (v : Int) : BitVec 16 := BitVec.ofInt 16 v

/-- The four-command form of LI64: bits 63:48 by LDI, then three LDIH (R107). -/
def expandLi64 (rd : Reg) (v : W64) : List Instr :=
  [.ldi rd (v.extractLsb' 48 16), .ldih rd (v.extractLsb' 32 16), .ldih rd (v.extractLsb' 16 16),
   .ldih rd (v.extractLsb' 0 16)]

/-- The expansion of a pseudo-instruction (R107). Where LI64 stands inside LFX or LFRAC, both its rows apply to a number in
-32768..32767, and R107 does not say which is meant: it is the four-command row here (DESIGN CHOICE, log entry 22). -/
def expand : Pseudo → List Instr
  | .li64Short rd v => [.ldi rd (immOfInt v)]
  | .li64 rd v => expandLi64 rd v
  | .lfxShort rd n => [.ldi rd (immOfInt n), .fromint rd rd]
  | .lfx rd n => expandLi64 rd n ++ [.fromint rd rd]
  | .lfrac rd p q ft => expandLi64 rd p ++ expandLi64 ft q ++ [.fromfrac rd rd ft]
  | .clr rd => [.ldi rd 0]
  | .cmtn rd rs1 rs2 => [.cgt rd rs1 rs2]
  | .cgtn rd rs1 rs2 => [.cge rd rs1 rs2]

/-! ## The host's reading of the opcode table -/

/-- Which command register a word of the opcode table is written to. The two maps share no word: every FXU row has a
nonzero opcode in bits 31:26 and every BWE row has bits 31:9 zero (R94, R100). Log entry 18. -/
def tableWordUnit (w : W32) : CmdUnit := if bweHighBitsOk w then .bwe else .fxu

/-- The 32-bit word that the low `nbits` bits of `w` spell. -/
def tableWord (nbits w : Nat) : W32 := BitVec.ofNat 32 (w % 2 ^ nbits)

/-- The command the decoder of the word's unit reads from a word of the opcode table. -/
def decodeTableWord (nbits w : Nat) : Option Instr :=
  (decode (tableWordUnit (tableWord nbits w)) (tableWord nbits w)).toOption

end Sys2Proof
end

