-- ==== Sys2Proof/Machine/Records.lean ====
section
/-!
DEFINITION. The BWE's records as typed data (10_state.md R30 to R37) and the enumerated codes of R45. The records of the
machine are bytes of the window (Machine/State.lean); these types are what a BWE command reads out of DCEIP, VBIOS and
MODE, and the RESULTS and OUTPUT it builds before it stores them.
-/

namespace Sys2Proof.Machine

/-! ## Enumerated codes (10_state.md R45) -/

/-- The check results of R45. -/
inductive CheckResult
  | ok | notok | exceededMaximumBw | exceededPageCloseOpen | exceededPteQueue
  | invalidRotationOrBppOrStereo | hsrNotSupportedByTaps | vsrNotSupportedByTaps | invalidLinearOrStereoMode
  deriving DecidableEq, Repr, Inhabited

/-- The core-voltage classes of R45. -/
inductive Voltage
  | low | mid | high | highNoNbpStateChange | notok | notApplicable
  deriving DecidableEq, Repr, Inhabited

/-- The surface types of R45. -/
inductive SurfaceType
  | graphics | underlay420Luma | underlay420Chroma | underlay422 | underlay444 | writebackLuma | writebackChroma
  deriving DecidableEq, Repr, Inhabited

/-- The underlay pixel formats of R45 (underlay_surface_type). -/
inductive UnderlayFormat
  | f420 | f422 | f444
  deriving DecidableEq, Repr, Inhabited

/-- The two planes of an underlay surface (00_scope.md R7, `UL_BPP(format, plane)`). -/
inductive Plane
  | luma | chroma
  deriving DecidableEq, Repr, Inhabited

/-- How a display uses an underlay (R45, underlay_mode). -/
inductive UnderlayMode
  | none | underlayOnly | blended
  deriving DecidableEq, Repr, Inhabited

/-- Stereo modes of R45. -/
inductive StereoMode
  | mono | sideBySide | topBottom
  deriving DecidableEq, Repr, Inhabited

/-- Tiling modes of R45. -/
inductive TilingMode
  | linear | tiled
  deriving DecidableEq, Repr, Inhabited

/-- Panning and bezel adjustment of R45. -/
inductive Panning
  | none | anyLines | oddLines
  deriving DecidableEq, Repr, Inhabited

/-- A clock or voltage tier (R45; 00_scope.md R7 `TIERS`). -/
inductive Tier
  | low | mid | high
  deriving DecidableEq, Repr, Inhabited

/-- The three state-change capabilities X of 45_bwe_calculate.md R225. -/
inductive Capability
  | nbp | cpup | cpuc
  deriving DecidableEq, Repr, Inhabited

/-- Which scale ratio `HSR_VSR_OK` is asked about (45_bwe_calculate.md R214). -/
inductive Axis
  | horizontal | vertical
  deriving DecidableEq, Repr, Inhabited

/-- The code of a check result (R45). -/
def CheckResult.code : CheckResult → W64
  | .ok => 0 | .notok => 1 | .exceededMaximumBw => 2 | .exceededPageCloseOpen => 3 | .exceededPteQueue => 4
  | .invalidRotationOrBppOrStereo => 5 | .hsrNotSupportedByTaps => 6 | .vsrNotSupportedByTaps => 7
  | .invalidLinearOrStereoMode => 8

/-- The code of a voltage class (R45). -/
def Voltage.code : Voltage → W64
  | .low => 0 | .mid => 1 | .high => 2 | .highNoNbpStateChange => 3 | .notok => 4 | .notApplicable => 5

/-- The code of a surface type (R45). -/
def SurfaceType.code : SurfaceType → W64
  | .graphics => 0 | .underlay420Luma => 1 | .underlay420Chroma => 2 | .underlay422 => 3 | .underlay444 => 4
  | .writebackLuma => 5 | .writebackChroma => 6

/-- The code of a stereo mode (R45). -/
def StereoMode.code : StereoMode → W64
  | .mono => 0 | .sideBySide => 1 | .topBottom => 2

/-- The code of a tiling mode (R45). -/
def TilingMode.code : TilingMode → W64
  | .linear => 0 | .tiled => 1

/-- The code of a tier (R45), which also orders the tiers. -/
def Tier.rank : Tier → Nat
  | .low => 0 | .mid => 1 | .high => 2

/-- The stereo mode a code stands for (R45); none for an illegal code. -/
def stereoModeOfCode (w : W64) : Option StereoMode :=
  if w = 0 then some .mono else if w = 1 then some .sideBySide else if w = 2 then some .topBottom else none

/-- The tiling mode a code stands for (R45); none for an illegal code. -/
def tilingModeOfCode (w : W64) : Option TilingMode :=
  if w = 0 then some .linear else if w = 1 then some .tiled else none

/-- The underlay format a code stands for (R45); none for an illegal code. -/
def underlayFormatOfCode (w : W64) : Option UnderlayFormat :=
  if w = 0 then some .f420 else if w = 1 then some .f422 else if w = 2 then some .f444 else none

/-- The underlay mode a code stands for (R45); none for an illegal code. -/
def underlayModeOfCode (w : W64) : Option UnderlayMode :=
  if w = 0 then some .none else if w = 1 then some .underlayOnly else if w = 2 then some .blended else none

/-- The panning mode a code stands for (R45); none for an illegal code. -/
def panningOfCode (w : W64) : Option Panning :=
  if w = 0 then some .none else if w = 1 then some .anyLines else if w = 2 then some .oddLines else none

/-- A BOOL slot read (10_state.md R30): 0 is false, any other value true. -/
def boolOfWord (w : W64) : Bool := w != 0

/-- A BOOL slot written (10_state.md R30): the BWE writes only 0 or 1. -/
def wordOfBool (b : Bool) : W64 := if b then 1 else 0

/-! ## Three of a kind -/

/-- One value per tier: `V.sclk[t]`, `V.yclk[t]`, `V.max_dispclk[t]` of 45_bwe_calculate.md. -/
structure PerTier (α : Type) where
  low : α
  mid : α
  high : α
  deriving DecidableEq, Repr, Inhabited

/-- One value per capability. -/
structure PerCapability (α : Type) where
  nbp : α
  cpup : α
  cpuc : α
  deriving DecidableEq, Repr, Inhabited

/-- The value at a tier. -/
def PerTier.get {α : Type} (p : PerTier α) : Tier → α
  | .low => p.low
  | .mid => p.mid
  | .high => p.high

/-- A function of each of the three values. -/
def PerTier.map {α β : Type} (f : α → β) (p : PerTier α) : PerTier β := ⟨f p.low, f p.mid, f p.high⟩

/-- The value for a capability. -/
def PerCapability.get {α : Type} (p : PerCapability α) : Capability → α
  | .nbp => p.nbp
  | .cpup => p.cpup
  | .cpuc => p.cpuc

/-! ## The records a command reads -/

/-- DCEIP (10_state.md R31). `ext` holds reserved slots 19 to 255, in order, each none while it holds no value (log entry 10):
the extension fields of `CAP_TABLE` and `STAGE_FNS` (R30). -/
structure Dceip where
  numberOfGraphicsPipes : W64
  numberOfUnderlayPipes : W64
  numberOfWritebackPipes : W64
  lbSizeGraphics : W64
  lbSizeUnderlay420Luma : W64
  lbSizeUnderlay420Chroma : W64
  lbSizeUnderlay422 : W64
  lbSizeUnderlay444 : W64
  vscalerEfficiency : W64 × W64 × W64 × W64
  chunkWidth : W64
  pteRequestQueueSize : W64
  scatterGatherLimit : W64
  dispclkRampingFactor : W64
  predownscalerCapable : Bool
  globalRequestBufferSize : W64
  singleDisplayGraphicsBufferFactor : W64
  ext : List (Option W64)
  deriving DecidableEq, Repr, Inhabited

/-- VBIOS (10_state.md R32), or a working copy of it (R38). `ext` holds reserved slots 15 to 255. -/
structure Vbios where
  sclk : PerTier W64
  yclk : PerTier W64
  maxDispclk : PerTier W64
  numberOfDramChannels : W64
  dramChannelWidthInBits : W64
  urgentLatency : W64
  nbpStateChangeLatency : W64
  selfRefreshExitLatency : W64
  blackoutDuration : W64
  ext : List (Option W64)
  deriving DecidableEq, Repr, Inhabited

/-- One display of MODE (10_state.md R33, slots 16 + 16k + j). -/
structure Display where
  hTotal : W64
  pixelRate : W64
  srcWidth : W64
  srcHeight : W64
  hsr : W64
  vsr : W64
  hTaps : W64
  vTaps : W64
  bytesPerPixel : W64
  rotationAngle : W64
  stereoMode : StereoMode
  interlace : Bool
  tilingMode : TilingMode
  fbcEnable : Bool
  scatterGatherEnable : Bool
  deriving DecidableEq, Repr, Inhabited

/-- The shared underlay surface of MODE (10_state.md R33, slots 112 to 120). -/
structure Underlay where
  srcWidth : W64
  srcHeight : W64
  hsr : W64
  vsr : W64
  hTaps : W64
  vTaps : W64
  rotationAngle : W64
  tilingMode : TilingMode
  scatterGatherEnable : Bool
  deriving DecidableEq, Repr, Inhabited

/-- The shared write-back surface of MODE (10_state.md R33, slots 128 to 135). -/
structure Writeback where
  srcWidth : W64
  srcHeight : W64
  hsr : W64
  vsr : W64
  hTaps : W64
  vTaps : W64
  bytesPerPixel : W64
  tilingMode : TilingMode
  deriving DecidableEq, Repr, Inhabited

/-- MODE after MODE_LEGAL (10_state.md R33, R34; 45_bwe_calculate.md R200). `displays` are displays 0 to n-1, so that
`n` is its length; `underlay` and `writeback` hold the shared fields when a surface uses them and the default otherwise. -/
structure Mode where
  displays : List Display
  underlayFormat : UnderlayFormat
  panning : Panning
  writebackEnable : Bool
  d0UnderlayMode : UnderlayMode
  d1UnderlayMode : UnderlayMode
  underlay : Underlay
  writeback : Writeback
  deriving DecidableEq, Repr, Inhabited

/-- `n`, MODE.number_of_displays (45_bwe_calculate.md, notation). -/
def Mode.n (m : Mode) : Nat := m.displays.length

/-- `M.d[k]`: display k, the default where there is none (no rule reads it there). -/
def Mode.display (m : Mode) (k : Nat) : Display := m.displays.getD k default

/-- `M.d<k>_underlay_mode`, and ul_none for k ≥ 2 (45_bwe_calculate.md R205; `NUL_DISP` = 2). -/
def Mode.underlayMode (m : Mode) : Nat → UnderlayMode
  | 0 => m.d0UnderlayMode
  | 1 => m.d1UnderlayMode
  | _ => .none

/-! ## RESULTS under construction (10_state.md R35) -/

/-- A surface slot, 0 to NSURF-1 = 11 (45_bwe_calculate.md R201). -/
abbrev Slot := Fin 12

/-- The per-surface arrays of stage 1 (arrays 0 to 3 and 35). -/
structure SurfClass where
  enable : Bool := false
  surfaceType : SurfaceType := .graphics
  useAlpha : Bool := false
  bytesPerPixel : W64 := 0
  displayIndex : Nat := 0
  deriving DecidableEq, Repr, Inhabited

/-- The per-surface arrays of stage 2 (arrays 4 to 15 and 34). -/
structure SurfGeometry where
  sourceWidth : W64 := 0
  sourceHeight : W64 := 0
  hsr : W64 := 0
  vsr : W64 := 0
  hTaps : W64 := 0
  vTaps : W64 := 0
  rotationAngle : W64 := 0
  stereoMode : StereoMode := .mono
  interlace : Bool := false
  tilingMode : TilingMode := .linear
  orthogonalRotation : Bool := false
  widthRoundedUpToChunks : W64 := 0
  scatterGatherEnable : Bool := false
  deriving DecidableEq, Repr, Inhabited

/-- The per-surface arrays of stage 4 (arrays 17 to 20). -/
structure SurfRequest where
  bytesPerRequest : W64 := 0
  usefulBytesPerRequest : W64 := 0
  linesInterleaved : W64 := 0
  latencyHidingLines : W64 := 0
  deriving DecidableEq, Repr, Inhabited

/-- The per-surface arrays of stage 5 (arrays 21 to 26). -/
structure SurfBandwidth where
  vFilterInit : W64 := 0
  lbPrefetchEligible : Bool := false
  linesInPerLineOutBeginning : W64 := 0
  linesInPerLineOutMiddle : W64 := 0
  requestBandwidth : W64 := 0
  displayBandwidth : W64 := 0
  deriving DecidableEq, Repr, Inhabited

/-- The per-surface arrays of stage 6 (arrays 27 to 29). -/
structure SurfBuffers where
  dataBufferSize : W64 := 0
  outstandingChunkRequestLimit : W64 := 0
  outstandingPteRequestLimit : W64 := 0
  deriving DecidableEq, Repr, Inhabited

/-- The per-surface arrays of stage 12 (arrays 30 to 33). -/
structure SurfWatermarks where
  lineSourceTransferTime : W64 := 0
  urgent : W64 := 0
  stutterExit : W64 := 0
  nbpStateChange : W64 := 0
  deriving DecidableEq, Repr, Inhabited

/-- The per-surface fields of stages 1 to 6. -/
structure SurfaceCore where
  cls : SurfClass := {}
  geo : SurfGeometry := {}
  lbPartitions : W64 := 0
  req : SurfRequest := {}
  bw : SurfBandwidth := {}
  buf : SurfBuffers := {}
  deriving DecidableEq, Repr, Inhabited

/-- All per-surface fields of one slot. -/
structure Surface extends SurfaceCore where
  wm : SurfWatermarks := {}
  deriving DecidableEq, Repr, Inhabited

/-- One cell of the state-change grid (45_bwe_calculate.md R225). -/
structure GridCell where
  margin : W64 := 0
  dispclkRequired : W64 := 0
  deriving DecidableEq, Repr, Inhabited

/-- The grid of one capability: first the yclk tier, then the sclk tier. -/
abbrev Grid := PerTier (PerTier GridCell)

/-- The grid of zeros that 45_bwe_calculate.md R203 leaves before stage 8. -/
def Grid.zero : Grid := ⟨⟨{}, {}, {}⟩, ⟨{}, {}, {}⟩, ⟨{}, {}, {}⟩⟩

/-- RESULTS as one CALC_CORE builds it, every field 0 at first (45_bwe_calculate.md R203). `ext` holds the extension
fields that `STAGE_FNS` may write (R231), by RESULTS slot number, an unlisted one 0. -/
structure Results where
  modeCheck : CheckResult := .ok
  pipeCheck : CheckResult := .ok
  hsrCheck : CheckResult := .ok
  vsrCheck : CheckResult := .ok
  lbSizeCheck : CheckResult := .ok
  fbcCheck : CheckResult := .ok
  rotationCheck : CheckResult := .ok
  yClkLevel : Tier := .low
  sclkLevel : Tier := .low
  dispclk : W64 := 0
  dispclkRequiredWithoutRamping : W64 := 0
  dispclkRequiredWithRamping : W64 := 0
  requiredSclk : W64 := 0
  requiredYclk : W64 := 0
  voltage : Voltage := .low
  stateChangeEnable : PerCapability Bool := ⟨false, false, false⟩
  totalDmifDramBandwidth : W64 := 0
  totalMcifwrDramBandwidth : W64 := 0
  totalDmifSclkBandwidth : W64 := 0
  totalMcifwrSclkBandwidth : W64 := 0
  requiredDramBandwidthGbytePerSecond : W64 := 0
  pageCloseOpenCheck : CheckResult := .ok
  maximumBwCheck : CheckResult := .ok
  pteRequestCheck : CheckResult := .ok
  dramAccessEfficiency : W64 := 0
  writeAccessEfficiency : W64 := 0
  averageBandwidthNoCompression : W64 := 0
  averageBandwidth : W64 := 0
  stutterEfficiency : W64 := 0
  immediateFlipLatency : W64 := 0
  worstCaseLatencyNonDisplay : W64 := 0
  numberOfEnabledGraphics : Nat := 0
  numberOfEnabledUnderlay : Nat := 0
  numberOfEnabledWriteback : Nat := 0
  grid : PerCapability Grid := ⟨Grid.zero, Grid.zero, Grid.zero⟩
  availableDramBandwidth : PerTier W64 := ⟨0, 0, 0⟩
  availableSclkBandwidth : PerTier W64 := ⟨0, 0, 0⟩
  dispclkReqPixelThroughput : W64 := 0
  dispclkReqScalerThroughput : W64 := 0
  dispclkReqReadRequestThroughput : W64 := 0
  dispclkVoltageTier : Nat := 0
  surfaces : Vector Surface 12 := Vector.replicate 12 {}
  ext : List (Nat × W64) := []
  deriving DecidableEq, Repr, Inhabited

/-- RESULTS right after the clear of 45_bwe_calculate.md R203. -/
def Results.zero : Results := {}

/-- OUTPUT as BWCALCS builds it (10_state.md R36); `marks` are OUTPUT slots 8 to 79 in order. -/
structure Output where
  supported : Bool
  dispclkKhz : W64
  requiredSclk : W64
  requiredYclk : W64
  stateChangeEnable : PerCapability Bool
  marks : List W64
  deriving DecidableEq, Repr, Inhabited

end Sys2Proof.Machine
end

