-- ==== Sys2Proof/Config.lean ====
section
/-!
DEFINITION. What an implementation fixes (00_scope.md R7, R8; 93_implementation_defined.md part 2) and the free values.
A parameter with a value in R7 is a constant with that value. An OPEN parameter, and every value the spec leaves to
`draw()`, is or is taken from an opaque constant with no body: nothing in Lean can evaluate it, so a theorem holds whatever it
is. The types of the OPEN parameters of the BWE stand here, their constants in Machine/Implementation.lean.
-/

namespace Sys2Proof.Config

/-! ## Parameters with a value (R7) -/

/-- `F`, the fraction bits of an FXU value (R7; UNVERIFIED: the spec marks it as general knowledge, log entry 15). -/
def fracBits : Nat := 24

/-- `SENTINEL`, the infeasible marker (R7, R8). -/
def sentinel : Int := 9999

/-- `CHUNK_PAN`, the chunk width in pixels with panning or bezel adjustment (R7, R8). -/
def chunkPan : Int := 128

/-- `CHUNK`, the chunk width in pixels without (R7, R8). -/
def chunk : Int := 256

/-- `TB_VFI_CLAMP`, the stereo top-bottom clamp of v_filter_init (R7, R8). -/
def topBottomFilterInitClamp : Int := 4

/-- `CLK_UNIT_SCALE`, kHz per internal clock unit (R7; UNVERIFIED: the spec marks it as general knowledge, log entry 15). -/
def clkUnitScale : Int := 1000

/-- `TIME_UNIT_NS`, ns per internal time unit (R7; UNVERIFIED: the spec marks it as general knowledge, log entry 15). -/
def timeUnitNs : Int := 1000

/-- `PASS_D_MID_YCLK`, pass d also sets mid_yclk (R7; UNVERIFIED: the spec marks it as general knowledge, log entry 15). -/
def passDMidYclk : Bool := true

/-- `PASS_C_LOW_SCLK` keeps the caller's low_sclk in pass c (R7, 46_bwe_bwcalcs.md R263). -/
def passCKeepsCallerLowSclk : Bool := true

/-- `NOTOK_FORCES_SENTINEL` (R7, 45_bwe_calculate.md R228). -/
def notokForcesSentinel : Bool := true

/-- The constant value of BLK_ID (10_state.md R22). -/
def blkId : W32 := 0x31435742

/-! ## What a stage formula reads and answers (45_bwe_calculate.md R231) -/

open Sys2Proof.Machine

/-- The extension fields a stage formula may also read: reserved slots of DCEIP and VBIOS (10_state.md R30) and the
RESULTS slots that earlier formulas of this CALC_CORE wrote (R231, constraint 3). Log entry 10. -/
structure Ext where
  dceip : List (Option W64)
  vbios : List (Option W64)
  results : List (Nat × W64)
  deriving DecidableEq, Repr, Inhabited

/-- The FXU operations of one operand (00_scope.md R15). -/
inductive FxUnary
  | neg | abs | fromint | toint
  deriving DecidableEq, Repr, Inhabited

/-- The FXU operations of two operands (00_scope.md R15). -/
inductive FxBinary
  | add | sub | mul | div | mod | floor | ceil | fromfrac | min | max | clt | cle | ceq | cne | cgt | cge
  deriving DecidableEq, Repr, Inhabited

/-- One step of a stage formula. An operand is the number of an earlier step of the same formula; a number that no
earlier step has stands for the word 0. -/
inductive StageOp
  /-- A word the formula reads, or a constant of it. -/
  | word (w : W64)
  | unary (op : FxUnary) (a : Nat)
  | binary (op : FxBinary) (a b : Nat)
  /-- The second operand if the first is not 0, and else the third: a choice between results, by a comparison. -/
  | select (c a b : Nat)
  deriving DecidableEq, Repr, Inhabited

/-- What a stage formula is for one set of what it reads: the FXU operations it makes, in order (R231, constraint 2), the
step whose result is its value, and the extension fields it writes (constraint 3), each a RESULTS slot number with the step
whose result is written. Log entry 11. -/
structure StageProgram where
  ops : List StageOp
  value : Nat
  ext : List (Nat × Nat) := []
  deriving DecidableEq, Repr, Inhabited

/-- What lb_partitions(i) reads. -/
structure LbReads where
  surfaceType : SurfaceType
  lbSize : W64
  widthRoundedUpToChunks : W64
  bytesPerPixel : W64
  hTaps : W64
  hsr : W64
  deriving DecidableEq, Repr, Inhabited

/-- What the four functions of stage 4 read. -/
structure RequestReads where
  tilingMode : TilingMode
  bytesPerPixel : W64
  orthogonalRotation : Bool
  surfaceType : SurfaceType
  chunkWidth : W64
  dramChannelWidthInBits : W64
  deriving DecidableEq, Repr, Inhabited

/-- What v_filter_init(i) reads. -/
structure FilterReads where
  vTaps : W64
  vsr : W64
  interlace : Bool
  deriving DecidableEq, Repr, Inhabited

/-- What lines_in_per_line_out_beginning(i) reads. -/
structure LinesReads where
  vsr : W64
  vFilterInit : W64
  lbPrefetchEligible : Bool
  deriving DecidableEq, Repr, Inhabited

/-- What request_bandwidth(i) reads. -/
structure BandwidthReads where
  widthRoundedUpToChunks : W64
  linesInPerLineOutBeginning : W64
  linesInPerLineOutMiddle : W64
  bytesPerRequest : W64
  usefulBytesPerRequest : W64
  hsr : W64
  bytesPerPixel : W64
  pixelRate : W64
  hTotal : W64
  deriving DecidableEq, Repr, Inhabited

/-- What data_buffer_size(i) and throttled_buffer_size(i) read. -/
structure BufferReads where
  surfaceType : SurfaceType
  numberOfDisplays : Nat
  globalRequestBufferSize : W64
  req : SurfRequest
  bw : SurfBandwidth
  deriving DecidableEq, Repr, Inhabited

/-- What chunk_request_limit(i) and pte_request_limit(i) read. -/
structure LimitReads where
  dataBufferSize : W64
  bytesPerRequest : W64
  tilingMode : TilingMode
  orthogonalRotation : Bool
  scatterGatherLimit : W64
  deriving DecidableEq, Repr, Inhabited

/-- What the functions of stage 7 read: the stage 1 to 6 fields of the enabled slots, and the DRAM geometry. -/
structure TotalReads where
  enabled : List (Slot × SurfaceCore)
  numberOfDramChannels : W64
  dramChannelWidthInBits : W64
  deriving DecidableEq, Repr, Inhabited

/-- What the functions of stage 8 read: the stage 4 to 6 fields of the enabled slots, the two clocks, the latencies. -/
structure GridReads where
  enabled : List (Slot × SurfRequest × SurfBandwidth × SurfBuffers)
  yclk : W64
  sclk : W64
  urgentLatency : W64
  nbpStateChangeLatency : W64
  selfRefreshExitLatency : W64
  blackoutDuration : W64
  deriving DecidableEq, Repr, Inhabited

/-- What the functions of stage 10 read: the enabled slots' fields, pixel_rate and h_total of each display below n,
the vscaler efficiencies, and the bit depth each of those is meant for (`VSC_DEPTHS`). The row of R231 reads 'M.d[k].pixel_rate, h_total,
taps' and says neither which k it means nor whose taps: the taps here are h_taps and v_taps of the enabled slots, so that the graphics
taps of an underlay-only display are not read, and k is every display below n (DESIGN CHOICE, log entry 10). -/
structure DispclkReads where
  enabled : List (Slot × SurfaceCore)
  timings : List (W64 × W64)
  vscalerEfficiency : W64 × W64 × W64 × W64
  vscDepths : Nat × Nat × Nat × Nat
  deriving DecidableEq, Repr, Inhabited

/-- What the per-slot functions of stage 12 read. -/
structure WatermarkReads where
  vFilterInit : W64
  sourceWidth : W64
  pixelRate : W64
  urgentLatency : W64
  yTier : Tier
  sTier : Tier
  deriving DecidableEq, Repr, Inhabited

/-- What total_urgent_latency() reads: V.urgent_latency and the two selected tiers. Its row of R231 also lists per-slot
fields, which a function without a slot argument cannot name (DESIGN CHOICE, log entry 10). -/
structure UrgentReads where
  urgentLatency : W64
  yTier : Tier
  sTier : Tier
  deriving DecidableEq, Repr, Inhabited

/-- What the metrics of stage 13 read: any RESULTS field written earlier, and VBIOS. -/
structure MetricReads where
  results : Results
  vbios : Vbios
  deriving DecidableEq, Repr, Inhabited

/-- `STAGE_FNS`, one record of functions (45_bwe_calculate.md R231): each gives, for what it reads, the FXU operations that
compute its answer. -/
structure StageFns where
  lbPartitions : Ext → Slot → LbReads → StageProgram
  bytesPerRequest : Ext → Slot → RequestReads → StageProgram
  usefulBytesPerRequest : Ext → Slot → RequestReads → StageProgram
  linesInterleaved : Ext → Slot → RequestReads → StageProgram
  latencyHidingLines : Ext → Slot → RequestReads → StageProgram
  vFilterInit : Ext → Slot → FilterReads → StageProgram
  linesInPerLineOutBeginning : Ext → Slot → LinesReads → StageProgram
  requestBandwidth : Ext → Slot → BandwidthReads → StageProgram
  dataBufferSize : Ext → Slot → BufferReads → StageProgram
  throttledBufferSize : Ext → Slot → BufferReads → StageProgram
  chunkRequestLimit : Ext → Slot → LimitReads → StageProgram
  pteRequestLimit : Ext → Slot → LimitReads → StageProgram
  cursorAndPteDramOverhead : Ext → TotalReads → StageProgram
  dmifSclkBandwidth : Ext → TotalReads → StageProgram
  mcifwrSclkBandwidth : Ext → TotalReads → StageProgram
  toGbytePerSecond : Ext → TotalReads → W64 → StageProgram
  availableDramBandwidth : Ext → TotalReads → W64 → StageProgram
  availableSclkBandwidth : Ext → TotalReads → W64 → StageProgram
  /-- page_close_open_ok(): a BOOL answer, 0 for false (10_state.md R30). -/
  pageCloseOpenOk : Ext → TotalReads → StageProgram
  hidingTime : Ext → Capability → Tier → Tier → GridReads → StageProgram
  burstTime : Ext → Tier → Tier → GridReads → StageProgram
  stateChangeDispclk : Ext → Capability → Tier → Tier → GridReads → StageProgram
  dispclkPixelThroughput : Ext → DispclkReads → StageProgram
  dispclkScalerThroughput : Ext → DispclkReads → StageProgram
  dispclkReadRequestThroughput : Ext → DispclkReads → StageProgram
  lineSourceTransferTime : Ext → Slot → WatermarkReads → StageProgram
  totalUrgentLatency : Ext → UrgentReads → StageProgram
  requestTimeOverhead : Ext → Slot → WatermarkReads → StageProgram
  cursorBufferLimit : Ext → Slot → WatermarkReads → StageProgram
  dramAccessEfficiency : Ext → MetricReads → StageProgram
  writeAccessEfficiency : Ext → MetricReads → StageProgram
  averageBandwidthNoCompression : Ext → MetricReads → StageProgram
  averageBandwidth : Ext → MetricReads → StageProgram
  stutterEfficiency : Ext → MetricReads → StageProgram
  immediateFlipLatency : Ext → MetricReads → StageProgram
  worstCaseLatencyNonDisplay : Ext → MetricReads → StageProgram
  deriving Inhabited

/-- The OPEN parameters of the BWE's calculation, passed as one argument so that a statement can speak of every
implementation: `STAGE_FNS` (R231), `HSR_VSR_OK` (R214), `UL_BPP` (R204) and `VSC_DEPTHS` (10_state.md R31). -/
structure BweParams where
  stage : StageFns
  /-- HSR_VSR_OK(axis, ratio, taps, predownscaler_capable, surface_type): a predicate alone, so that asking it raises neither
  DZ nor OV, whatever it computes (DESIGN CHOICE, log entry 14). -/
  hsrVsrOk : Axis → W64 → W64 → Bool → SurfaceType → Bool
  ulBpp : UnderlayFormat → Plane → W64
  /-- `VSC_DEPTHS`: the bit depth meant by vscaler_efficiency_0 to _3. -/
  vscDepths : Nat × Nat × Nat × Nat
  deriving Inhabited

/-! ## OPEN parameters and free values

The OPEN parameters that the spec puts conditions on stand in Machine/Implementation.lean, with those conditions. -/

/-- `BWC_BASE`, the physical base of the MMIO window (20_memory.md R70). Log entry 8. -/
opaque bwcBase : Nat

/-- `draw()` (00_scope.md R14) for the result of a division by zero, in an FXU command or inside a BWE command: a free value for
each value of the counter. Log entry 4. -/
opaque draw : Nat → W64

/-- `draw()` for a host read of a location that holds no value (70_reset_and_hazards.md R311): free for each value of
the counter and each offset. Log entry 4. -/
opaque unwrittenRead : Nat → Nat → W32

end Sys2Proof.Config
end

