-- ==== Sys2Proof/Machine/State.lean ====
section
/-!
DEFINITION. Everything the spec gives the machine (10_state.md), as plain data, and the machine right after reset
(70_reset_and_hazards.md R310). What is the model's own is said to be so.
-/

namespace Sys2Proof.Machine

/-! ## Registers -/

/-- One FXU register (10_state.md R21): its 64 bits, and which of its halves have been written since reset
(43_fxu_move.md R184, 70_reset_and_hazards.md R311). -/
structure FReg where
  value : W64
  loWritten : Bool
  hiWritten : Bool
  deriving DecidableEq, Repr

/-- A register holds a value once both halves have been written (R184). -/
def FReg.written (r : FReg) : Bool := r.loWritten && r.hiWritten

/-! ## The record memory -/

/-- The bytes of the five records at their window offsets (20_memory.md R71, R73): addresses strictly rising. An
offset that is not listed holds no value (70_reset_and_hazards.md R311; log entry 2). -/
abbrev Memory := List Host.Cell

/-! ## What the host does (70_reset_and_hazards.md R318) -/

/-- Who issues an access: the host agent that owns the instance, or another one (20_memory.md R81). -/
inductive Agent
  | owner | other
  deriving DecidableEq, Repr

/-- The widths of an access (20_memory.md R72). -/
inductive AccessWidth
  | w8 | w16 | w32 | w64
  deriving DecidableEq, Repr

/-- An access to the window, at a byte offset from `BWC_BASE` (20_memory.md R70). -/
structure Access where
  agent : Agent
  width : AccessWidth
  offset : Nat
  deriving DecidableEq, Repr

/-- What reaches the block from outside: a read, a write (of the low bits of `value` for a narrower access), a reset
between accesses (R310), or a reset asserted inside an access, which the model refuses (R318). -/
inductive HostEvent
  | read (a : Access)
  | write (a : Access) (value : W64)
  | reset
  | resetInsideAccess
  deriving DecidableEq, Repr

/-! ## Conditions (60_exceptions.md R290) -/

/-- The three conditions a command can raise. -/
inductive Cond
  | ill | dz | ov
  deriving DecidableEq, Repr

/-! ## The state -/

/-- The machine. BLK_ID is a constant (R22); FXU_CMD and BWE_CTRL hold nothing (R23, R25); the working copy of VBIOS
exists only inside one BWCALCS (R38). -/
structure State where
  /-- FR0 to FR15 (10_state.md R21). -/
  fr : Vector FReg 16
  /-- FXU_STATUS (10_state.md R24). -/
  fxuStatus : W32
  /-- BWE_STATUS (10_state.md R26). -/
  bweStatus : W32
  /-- BWE_VERSION (10_state.md R27). -/
  bweVersion : W32
  /-- DCEIP, VBIOS, MODE, OUTPUT and RESULTS (10_state.md R30 to R36). -/
  mem : Memory
  /-- The model's own: the host's accesses still to come, oldest first (log entry 5). -/
  pending : List HostEvent
  /-- The model's own: what the last access gave back to the host (R318; log entry 6). -/
  response : Option W32
  /-- The model's own: the counter to which the free values of Config are applied (log entry 4). -/
  draws : Nat
  /-- The model's own: a command has read an FR register that holds no value, the launch fault of R311 (log entry 1). -/
  launchFault : Bool
  deriving DecidableEq, Repr

/-- Why the machine stops. -/
inductive Fault
  /-- Raised by BWE.CALC and BWE.BWCALCS: the record field at this window offset holds no value, and the command needs
  it (70_reset_and_hazards.md R311). Safe: the spec says to treat it as a fault of the launch. -/
  | unwrittenSlot (offset : Nat)
  /-- Raised by an access at an offset outside the 32 KiB window (20_memory.md R70, R75). Safe: no such address belongs
  to the block. -/
  | outsideWindow (offset : Nat)
  deriving DecidableEq, Repr

/-- Why the machine has no step. -/
inductive Refusal
  /-- Raised by exec for an instruction that has no meaning yet. Safe. -/
  | notModelled (mnemonic : String)
  /-- Raised by an access that is not an aligned 32-bit one (20_memory.md R72: a model must refuse it). Safe. -/
  | badAccess (a : Access)
  /-- Raised by an access of a second host agent (20_memory.md R81: a model must refuse it). Safe. -/
  | secondAgent
  /-- Raised by a reset asserted inside a host access (70_reset_and_hazards.md R318: a model has no move for it). Safe. -/
  | resetInsideAccess
  deriving DecidableEq, Repr

/-- An FR register right after reset: unspecified by the spec (R310, R311). Value 0, DESIGN CHOICE of log entry 1. -/
def FReg.reset : FReg := ⟨0, false, false⟩

/-- The machine right after reset (70_reset_and_hazards.md R310). -/
def State.reset : State where
  fr := Vector.replicate 16 FReg.reset
  fxuStatus := 0
  bweStatus := 0
  bweVersion := 0
  mem := []
  pending := []
  response := none
  draws := 0
  launchFault := false

end Sys2Proof.Machine
end

