-- ==== Sys2Proof/Machine/Flags.lean ====
section
/-!
DEFINITION. The status bits (10_state.md R24, R26, R27) and every overflow test of the FXU (60_exceptions.md R292).
-/

namespace Sys2Proof.Machine

/-! ## Where the bits stand -/

/-- The bit of a condition in FXU_STATUS (R24, R290). -/
def fxuStatusBit : Cond → W32
  | .ill => 0x1
  | .dz => 0x2
  | .ov => 0x4

/-- The bit of a condition in BWE_STATUS (R26, R290). -/
def bweStatusBit : Cond → W32
  | .ill => 0x2
  | .dz => 0x4
  | .ov => 0x8

/-- BWE_STATUS.SUPPORTED (R26). -/
def supportedBit : W32 := 0x1

/-- BWE_STATUS.RES_VALID (R26). -/
def resValidBit : W32 := 0x10

/-- BWE_STATUS.OUT_VALID (R26). -/
def outValidBit : W32 := 0x20

/-- The write-1-to-clear bits of FXU_STATUS (R24). -/
def fxuStatusW1cMask : W32 := 0x7

/-- The write-1-to-clear bits of BWE_STATUS (R26). -/
def bweStatusW1cMask : W32 := 0xE

/-- Write-1-to-clear: a bit of the mask written as 1 is cleared; every other bit of the register stays (R24, R26, R80). -/
def writeOneToClear (mask old value : W32) : W32 := old &&& ~~~(value &&& mask)

/-- `b` set or cleared in a register. -/
def assignBit (old bit : W32) (b : Bool) : W32 := if b then old ||| bit else old &&& ~~~bit

/-- BWE_VERSION after an INIT (R27, 44_bwe_init.md R190). -/
def versionWord (version : BitVec 4) (stoney : Bool) : W32 := 0#26 ++ 1#1 ++ BitVec.ofBool stoney ++ version

/-! ## Overflow tests -/

/-- An exact value lies in [-2^63, 2^63) (40_fxu_arith.md R110, R111). -/
def fits64 (v : Int) : Bool := decide (-0x8000000000000000 ≤ v ∧ v < 0x8000000000000000)

/-- MUL's test: the integer-part product reaches 2^(63-F), or the magnitude sum passes 2^63 - 1 (R114). -/
def mulOverflows (intProduct sum : Nat) : Bool :=
  decide (2 ^ (63 - Config.fracBits) ≤ intProduct) || decide (0x7FFFFFFFFFFFFFFF < sum)

/-- FRAC's test: the rounded magnitude reaches 2^63 (R115). -/
def fracOverflows (magnitude : Nat) : Bool := decide (0x8000000000000000 ≤ magnitude)

/-- FROMINT's test: not strictly between -2^(63-F) and 2^(63-F) - 1 (41_fxu_rounding.md R142). -/
def fromIntOverflows (v : Int) : Bool :=
  !decide (-(2 ^ (63 - Config.fracBits) : Nat) < v ∧ v < (2 ^ (63 - Config.fracBits) : Nat) - 1)

/-- TOINT's test: the integer part lies outside [-2^31, 2^31) (R144). -/
def toIntOverflows (i : Int) : Bool := !decide (-0x80000000 ≤ i ∧ i < 0x80000000)

end Sys2Proof.Machine
end

