-- ==== Sys2Proof/Machine/Fixed.lean ====
section
/-!
DEFINITION. The FXU's arithmetic on raw words (files 40 to 42 of spec/), shared by the FXU commands and by the BWE
(00_scope.md R15). Operands become mathematical integers, the result is computed exactly and narrowed at the end.
-/

namespace Sys2Proof.Machine

/-- What an FXU operation gives: an exact result, the wrapped result of an overflow (OV), or no fixed result after a
division by zero (DZ, `draw()`). At most one condition is raised (60_exceptions.md R294). -/
inductive FxResult
  | exact (v : W64)
  | overflow (v : W64)
  | divByZero
  deriving DecidableEq, Repr

namespace Fx

/-! ## Width primitives (00_scope.md R10, R11) -/

/-- `wrap_64`. -/
def wrap (v : Int) : W64 := BitVec.ofInt 64 v

/-- `mag`: the magnitude of a raw word. -/
def mag (a : W64) : Nat := a.toInt.natAbs

/-- `2^F`, the raw word of 1.0. -/
def scale : Nat := 2 ^ Config.fracBits

/-- `HALF = 2^(F-1)`. -/
def half : Nat := 2 ^ (Config.fracBits - 1)

/-- `FX(n)`: the raw word of the integer n (R11). -/
def ofInteger (n : Int) : W64 := wrap (n * scale)

/-- A result with OV when the test says so. -/
def withOv (ov : Bool) (v : W64) : FxResult := if ov then .overflow v else .exact v

/-- An exact integer narrowed to a word, OV when it does not fit. -/
def narrow (v : Int) : FxResult := withOv (!fits64 v) (wrap v)

/-- A magnitude with a sign, narrowed: `wrap_64(M)`, negated when the sign is set. -/
def signed (neg : Bool) (magnitude : Nat) : W64 := if neg then wrap (-(wrap magnitude).toInt) else wrap magnitude

/-! ## Arithmetic (40_fxu_arith.md) -/

/-- ADD (R110). -/
def add (a b : W64) : FxResult := narrow (a.toInt + b.toInt)

/-- SUB (R111). -/
def sub (a b : W64) : FxResult := narrow (a.toInt - b.toInt)

/-- NEG (R112). -/
def neg (a : W64) : FxResult := narrow (-a.toInt)

/-- ABS (R113). -/
def abs (a : W64) : FxResult := narrow (mag a)

/-- Whether the result of a multiplication or division takes the minus sign (R114, R115). -/
def signsDiffer (a b : W64) : Bool := decide (a.toInt < 0) != decide (b.toInt < 0)

/-- The product of the integer parts of two magnitudes, `ai*bi` (R114). -/
def mulIntProduct (A B : Nat) : Nat := (A / scale) * (B / scale)

/-- The magnitude sum `S` of R114: four partial products, and the rounding term on the whole fraction product. -/
def mulSum (A B : Nat) : Nat :=
  let ai := A / scale
  let af := A % scale
  let bi := B / scale
  let bf := B % scale
  let p := af * bf
  ai * bi * scale + ai * bf + bi * af + p / scale + (if half ≤ p then 1 else 0)

/-- MUL (R114). -/
def mul (a b : W64) : FxResult :=
  withOv (mulOverflows (mulIntProduct (mag a) (mag b)) (mulSum (mag a) (mag b)))
    (signed (signsDiffer a b) (mulSum (mag a) (mag b)))

/-- The magnitude `M` of R115: the quotient rounded half up. -/
def fracMagnitude (N D : Nat) : Nat :=
  let q := N * scale / D
  let r := N * scale % D
  q + (if D ≤ 2 * r then 1 else 0)

/-- FRAC(n, d), the fraction helper of DIV and FROMFRAC (R115). -/
def frac (n d : W64) : FxResult :=
  if d = 0 then .divByZero
  else withOv (fracOverflows (fracMagnitude (mag n) (mag d))) (signed (signsDiffer n d) (fracMagnitude (mag n) (mag d)))

/-- DIV (R116): FRAC of the raw words. -/
def div (a b : W64) : FxResult := frac a b

/-- MOD (R117): the remainder of the raw bits read as unsigned. -/
def mod (a b : W64) : FxResult := if b = 0 then .divByZero else .exact (BitVec.ofNat 64 (a.toNat % b.toNat))

/-! ## Rounding and conversion (41_fxu_rounding.md) -/

/-- `m = tdiv(a, wrap_64(s))` for the quantum `s` (R139). -/
def multiples (a : W64) (s : Nat) : Int := a.toInt.tdiv (wrap s).toInt

/-- The multiple of the quantum toward zero: FLOOR's result (R140). -/
def towardZero (a : W64) (s : Nat) : W64 := wrap (s * multiples a s)

/-- FLOOR (R140). -/
def floor (a significance : W64) : FxResult :=
  if significance = 0 then .divByZero else .exact (towardZero a (mag significance))

/-- CEIL's step of one quantum away from zero, exactly (R141). -/
def stepAway (a r : W64) (s : Nat) : Int := if a.toInt < 0 then r.toInt - s else r.toInt + s

/-- CEIL (R141). -/
def ceil (a significance : W64) : FxResult :=
  if significance = 0 then .divByZero
  else
    let s := mag significance
    let r := towardZero a s
    if mag r < mag a then narrow (stepAway a r s) else .exact r

/-- FROMINT (R142). -/
def fromInt (v : W64) : FxResult := withOv (fromIntOverflows v.toInt) (ofInteger v.toInt)

/-- FROMFRAC (R143): FRAC of the two integers. -/
def fromFrac (n d : W64) : FxResult := frac n d

/-- `a >> F`, the integer part rounded toward minus infinity (R144, 90_conflicts.md C7). -/
def integerPart (a : W64) : Int := a.toInt.fdiv scale

/-- TOINT (R144). -/
def toInt (a : W64) : FxResult :=
  withOv (toIntOverflows (integerPart a)) ((BitVec.ofInt 32 (integerPart a)).signExtend 64)

/-! ## Selection and comparison (42_fxu_select_compare.md R159) -/

/-- LT: the order of the raw words as signed integers. -/
def lt (a b : W64) : Bool := decide (a.toInt < b.toInt)

/-- LE. -/
def le (a b : W64) : Bool := decide (a.toInt ≤ b.toInt)

/-- EQ: equal raw words. -/
def eq (a b : W64) : Bool := decide (a = b)

/-- NE. -/
def ne (a b : W64) : Bool := !eq a b

/-- GT. -/
def gt (a b : W64) : Bool := decide (a.toInt > b.toInt)

/-- GE. -/
def ge (a b : W64) : Bool := decide (a.toInt ≥ b.toInt)

/-- MIN (R160). -/
def min (a b : W64) : W64 := if le a b then a else b

/-- MAX (R161). -/
def max (a b : W64) : W64 := if le b a then a else b

/-- The raw integer 0 or 1 that a comparison writes (R162). -/
def truth (b : Bool) : W64 := if b then 1 else 0

end Fx

end Sys2Proof.Machine
end

