-- ==== Sys2Proof/Machine/Ops.lean ====
section
/-!
DEFINITION. The named operations over registers, status and record memory, through which every meaning acts.
-/

namespace Sys2Proof.Machine

/-! ## Record memory (20_memory.md R71, R76; 70_reset_and_hazards.md R311) -/

/-- The canonical form: addresses strictly rising. (An unlisted offset holds no value, so no entry can equal it.) -/
abbrev Memory.wf (m : Memory) : Prop := m.Pairwise (fun c d => c.1 < d.1)

/-- The byte at an offset; none when nothing has written it (R311; log entry 2). -/
def Memory.read : Memory → Nat → Option Byte
  | [], _ => none
  | c :: m, a => if c.1 = a then some c.2 else Memory.read m a

/-- The cells of consecutive bytes from an offset. -/
def Memory.cellsFrom : Nat → List Byte → Memory
  | _, [] => []
  | a, b :: bs => (a, b) :: Memory.cellsFrom (a + 1) bs

/-- Consecutive bytes stored from an offset, keeping the canonical form. -/
def Memory.store (m : Memory) (a : Nat) (bs : List Byte) : Memory :=
  m.filter (fun c => c.1 < a) ++ Memory.cellsFrom a bs ++ m.filter (fun c => a + bs.length ≤ c.1)

/-- The four bytes of a word, the lowest first (R71). -/
def bytesOfWord (w : W32) : List Byte := [w.extractLsb' 0 8, w.extractLsb' 8 8, w.extractLsb' 16 8, w.extractLsb' 24 8]

/-- The low half of a 64-bit register or slot (R71). -/
def lowHalf (w : W64) : W32 := w.extractLsb' 0 32

/-- The high half of a 64-bit register or slot (R71). -/
def highHalf (w : W64) : W32 := w.extractLsb' 32 32

/-- The eight bytes of a slot: the low half at the lower offset (R71). -/
def bytesOfSlot (w : W64) : List Byte := bytesOfWord (lowHalf w) ++ bytesOfWord (highHalf w)

/-- The aligned word at an offset, none unless all four bytes hold a value. -/
def Memory.word (m : Memory) (a : Nat) : Option W32 :=
  match m.read a, m.read (a + 1), m.read (a + 2), m.read (a + 3) with
  | some b0, some b1, some b2, some b3 => some (b3 ++ b2 ++ b1 ++ b0)
  | _, _, _, _ => none

/-- The slot at an offset, none unless both halves hold a value (R311). -/
def Memory.slot (m : Memory) (a : Nat) : Option W64 :=
  match m.word a, m.word (a + 4) with
  | some lo, some hi => some (hi ++ lo)
  | _, _ => none

/-- Whole 64-bit slots stored from an offset (R78). -/
def Memory.storeSlots (m : Memory) (a : Nat) (ws : List W64) : Memory := m.store a (ws.flatMap bytesOfSlot)

/-! ## Where the records lie (R73) -/

/-- The offset of slot k of a record that begins at `base`. -/
def slotOffset (base k : Nat) : Nat := base + 8 * k

/-- DCEIP's first offset. -/
def dceipBase : Nat := 0x1000

/-- VBIOS's first offset. -/
def vbiosBase : Nat := 0x1800

/-- MODE's first offset. -/
def modeBase : Nat := 0x2000

/-- OUTPUT's first offset. -/
def outputBase : Nat := 0x2800

/-- RESULTS's first offset. -/
def resultsBase : Nat := 0x4000

/-- Whether an offset lies in one of the five records (R73): 0x1000 to 0x2FFF, or 0x4000 to 0x7FFF. -/
def inRecord (a : Nat) : Bool := (decide (0x1000 ≤ a) && decide (a < 0x3000)) || (decide (0x4000 ≤ a) && decide (a < 0x8000))

/-! ## FXU registers (10_state.md R21; 43_fxu_move.md R184) -/

/-- The 64 bits of FRr. -/
def State.frValue (s : State) (r : Reg) : W64 := s.fr[r].value

/-- A command writes FRr, which then holds a value (R184). -/
def State.writeFr (s : State) (r : Reg) (v : W64) : State := { s with fr := s.fr.set r ⟨v, true, true⟩ }

/-- A command reads FRr as a source: a read of a register that holds no value is recorded as the launch fault of
70_reset_and_hazards.md R311, and the command goes on with the register's 64 bits (log entry 1). -/
def State.touchFr (s : State) (r : Reg) : State := { s with launchFault := s.launchFault || !s.fr[r].written }

/-- A register with its low half replaced by a host write (R76, R184). -/
def FReg.withLow (r : FReg) (v : W32) : FReg := { r with value := highHalf r.value ++ v, loWritten := true }

/-- A register with its high half replaced by a host write (R76, R184). -/
def FReg.withHigh (r : FReg) (v : W32) : FReg := { r with value := v ++ lowHalf r.value, hiWritten := true }

/-- A host write of one half of FRr: not a command, raises nothing (R184). -/
def State.writeFrHalf (s : State) (r : Reg) (high : Bool) (v : W32) : State :=
  { s with fr := s.fr.set r (if high then s.fr[r].withHigh v else s.fr[r].withLow v) }

/-! ## Free values (00_scope.md R14; log entry 4) -/

/-- The counter moves on, so that the next free value is a new one. -/
def State.countDraw (s : State) : State := { s with draws := s.draws + 1 }

/-! ## Raising a condition (00_scope.md R13, 60_exceptions.md R290, R294)

The block has no trap: raising a condition sets its sticky bit in the status register of the unit that executes the
command, and nothing else. There is nothing to return from (R297). -/

/-- A condition of the FXU. -/
def State.raiseFxu (s : State) (c : Cond) : State := { s with fxuStatus := s.fxuStatus ||| fxuStatusBit c }

/-- A condition of the BWE (R296). -/
def State.raiseBwe (s : State) (c : Cond) : State := { s with bweStatus := s.bweStatus ||| bweStatusBit c }

/-- A condition of the unit that was written to. -/
def State.raise (s : State) : CmdUnit → Cond → State
  | .fxu, c => s.raiseFxu c
  | .bwe, c => s.raiseBwe c

/-! ## The end of an FXU command (40_fxu_arith.md R109) -/

/-- The destination is written, then the condition is raised. A division by zero writes a free value (R115, R291). -/
def State.retire (s : State) (rd : Reg) : FxResult → State
  | .exact v => s.writeFr rd v
  | .overflow v => (s.writeFr rd v).raiseFxu .ov
  | .divByZero => ((s.writeFr rd (Config.draw s.draws)).raiseFxu .dz).countDraw

end Sys2Proof.Machine
end

