-- ==== Sys2Proof/Machine/Bus.lean ====
section
/-!
DEFINITION. The MMIO window (20_memory.md): what an offset selects, what a read returns, what a write does, and how one
event of the host is served. Fetching a command is taking the word of a write to FXU_CMD or BWE_CTRL (R82).
-/

namespace Sys2Proof.Machine

/-! ## The map (R73) -/

/-- What an aligned offset selects. -/
inductive Target
  | blkId | fxuCmd | fxuStatus | bweCtrl | bweStatus | bweVersion
  | frHalf (r : Reg) (high : Bool)
  | record
  | reserved
  | outside
  deriving DecidableEq, Repr

/-- The FXU register an offset in 0x100..0x17F belongs to. -/
def frAtOffset (offset : Nat) : Reg := Fin.ofNat 16 ((offset - 0x100) / 8)

/-- The map of R73, for an offset that is a multiple of 4. -/
def targetOf (offset : Nat) : Target :=
  if offset = 0x000 then .blkId
  else if offset = 0x004 then .fxuCmd
  else if offset = 0x008 then .fxuStatus
  else if offset = 0x00C then .bweCtrl
  else if offset = 0x010 then .bweStatus
  else if offset = 0x014 then .bweVersion
  else if 0x100 ≤ offset ∧ offset < 0x180 then .frHalf (frAtOffset offset) (offset / 4 % 2 == 1)
  else if inRecord offset then .record
  else if offset < 0x8000 then .reserved
  else .outside

/-- The physical address of an access (R70; log entry 8). The block sees only the offset. -/
def Access.physicalAddress (a : Access) : Nat := Config.bwcBase + a.offset

/-! ## Reads (R74, R77; 70_reset_and_hazards.md R311) -/

/-- What a host reads from one half of an FXU register: a free value while nothing has written that half (R311). -/
def State.readFrHalf (s : State) (r : Reg) (high : Bool) (offset : Nat) : W32 :=
  if high then
    if s.fr[r].hiWritten then highHalf s.fr[r].value else Config.unwrittenRead s.draws offset
  else
    if s.fr[r].loWritten then lowHalf s.fr[r].value else Config.unwrittenRead s.draws offset

/-- What a host reads from a record: a free value while nothing has written the word (R311). -/
def State.readRecord (s : State) (offset : Nat) : W32 := (s.mem.word offset).getD (Config.unwrittenRead s.draws offset)

/-- The value of a read of an aligned offset of the window. FXU_CMD, BWE_CTRL and reserved offsets read 0 (R74). -/
def State.readWindow (s : State) (offset : Nat) : W32 :=
  match targetOf offset with
  | .blkId => Config.blkId
  | .fxuStatus => s.fxuStatus
  | .bweStatus => s.bweStatus
  | .bweVersion => s.bweVersion
  | .frHalf r high => s.readFrHalf r high offset
  | .record => s.readRecord offset
  | .fxuCmd | .bweCtrl | .reserved | .outside => 0

/-! ## Serving one event -/

/-- How an event is served: a new state, a command to execute, or a stop. -/
inductive Served
  | next (s : State)
  | command (i : Instr) (s : State)
  | fault (f : Fault)
  | refused (r : Refusal)
  deriving DecidableEq, Repr

/-- A word written to a command register: the decoded command, or ILL in the unit's status (R101, R104). -/
def State.issue (s : State) (u : CmdUnit) (w : W32) : Served :=
  match decode u w with
  | .ok i => .command i s
  | .error _ => .next (s.raise u .ill)

/-- A write of an aligned word of the window (R74, R76, R77). -/
def State.writeWindow (s : State) (offset : Nat) (v : W32) : Served :=
  match targetOf offset with
  | .fxuCmd => s.issue .fxu v
  | .bweCtrl => s.issue .bwe v
  | .fxuStatus => .next { s with fxuStatus := writeOneToClear fxuStatusW1cMask s.fxuStatus v }
  | .bweStatus => .next { s with bweStatus := writeOneToClear bweStatusW1cMask s.bweStatus v }
  | .frHalf r high => .next (s.writeFrHalf r high v)
  | .record => .next { s with mem := s.mem.store offset (bytesOfWord v) }
  | .blkId | .bweVersion | .reserved | .outside => .next s

/-- An access the block answers: 32 bits at a multiple of 4 (R72). -/
def Access.aligned32 (a : Access) : Bool := a.width == .w32 && a.offset % 4 == 0

/-- The stop of an access, if it has one: a second agent and a misshapen access are refused, an offset outside the
window faults (R70, R72, R81; log entry 7). -/
def Access.stop (a : Access) : Option Served :=
  if a.agent = .other then some (.refused .secondAgent)
  else if !a.aligned32 then some (.refused (.badAccess a))
  else if targetOf a.offset = .outside then some (.fault (.outsideWindow a.offset))
  else none

/-- Before a write acts: it gives nothing back, and it moves the counter of free values on, so that only reads with no
write between them must agree (R77; log entry 4). -/
def State.beginWrite (s : State) : State := { s.countDraw with response := none }

/-- The reset event (R310, R314): everything as after reset, but for the host's accesses still to come, and for the
counter of free values, which moves on. The mark of a launch fault is cleared too: a run starts at reset (R319), so that a fault
before it withdraws no claim about what follows (DESIGN CHOICE, log entry 23). -/
def State.resetKeepingHost (s : State) : State := { State.reset with pending := s.pending, draws := s.draws + 1 }

/-- One event of the host, already taken off the list. -/
def State.serve (s : State) : HostEvent → Served
  | .read a =>
    match a.stop with
    | some stop => stop
    | none => .next { s with response := some (s.readWindow a.offset) }
  | .write a value =>
    match a.stop with
    | some stop => stop
    | none => s.beginWrite.writeWindow a.offset (lowHalf value)
  | .reset => .next s.resetKeepingHost
  | .resetInsideAccess => .refused .resetInsideAccess

/-! ## The host's syntax (30_encoding.md R106) -/

/-- `W32 off, value`. -/
def w32 (offset : Nat) (value : W32) : HostEvent := .write ⟨.owner, .w32, offset⟩ (value.zeroExtend 64)

/-- `R32 off`. -/
def r32 (offset : Nat) : HostEvent := .read ⟨.owner, .w32, offset⟩

/-- `W64 off, value`: the low word at `off`, then the high word at `off + 4`. -/
def w64 (offset : Nat) (value : W64) : List HostEvent := [w32 offset (lowHalf value), w32 (offset + 4) (highHalf value)]

/-- The offset of a unit's command register (R23, R25). -/
def commandOffset : CmdUnit → Nat
  | .fxu => 0x004
  | .bwe => 0x00C

/-- The host access that issues a command (R106). -/
def issueEvent (i : Instr) : HostEvent := w32 (commandOffset i.unit) (encode i)

/-- The host access that writes a word of the opcode table to its command register (log entry 18). -/
def tableWordEvent (nbits w : Nat) : HostEvent := w32 (commandOffset (tableWordUnit (tableWord nbits w))) (tableWord nbits w)

end Sys2Proof.Machine
end

