-- ==== Sys2Proof/Machine/Operands.lean ====
section
/-!
DEFINITION. The operand forms of the FXU commands (30_encoding.md R91 to R93) and the common execution of R109: every
source is read before the destination is written.
-/

namespace Sys2Proof.Machine

/-- LDI's operand: `sext_64(imm16)` (R92). -/
def immSigned (imm16 : BitVec 16) : W64 := imm16.signExtend 64

/-- LDIH's operand: `imm16` below the destination's old low 48 bits (R92, 43_fxu_move.md R181). -/
def immShiftedIn (old : W64) (imm16 : BitVec 16) : W64 := old.extractLsb' 0 48 ++ imm16

/-- A command with two register sources. -/
def State.fxu2 (s : State) (f : W64 → W64 → FxResult) (rd rs1 rs2 : Reg) : State :=
  ((s.touchFr rs1).touchFr rs2).retire rd (f (s.frValue rs1) (s.frValue rs2))

/-- A command with one register source. -/
def State.fxu1 (s : State) (f : W64 → FxResult) (rd rs1 : Reg) : State :=
  (s.touchFr rs1).retire rd (f (s.frValue rs1))

/-- A command with two register sources that raises no condition (42_fxu_select_compare.md R159). -/
def State.select2 (s : State) (f : W64 → W64 → W64) (rd rs1 rs2 : Reg) : State :=
  s.fxu2 (fun a b => .exact (f a b)) rd rs1 rs2

/-- A comparison: it writes the raw integer 0 or 1 (R162). -/
def State.compare2 (s : State) (f : W64 → W64 → Bool) (rd rs1 rs2 : Reg) : State :=
  s.select2 (fun a b => Fx.truth (f a b)) rd rs1 rs2

end Sys2Proof.Machine
end

