-- ==== Sys2Proof/Machine/Arith.lean ====
section
/-!
DEFINITION. The meanings of ADD, SUB, MUL, DIV, MOD, NEG, ABS (40_fxu_arith.md).
-/

namespace Sys2Proof.Machine

/-- ADD (R110). -/
def execAdd (rd rs1 rs2 : Reg) (s : State) : Host.Outcome State Fault Refusal := .next (s.fxu2 Fx.add rd rs1 rs2)

/-- SUB (R111). -/
def execSub (rd rs1 rs2 : Reg) (s : State) : Host.Outcome State Fault Refusal := .next (s.fxu2 Fx.sub rd rs1 rs2)

/-- MUL (R114). -/
def execMul (rd rs1 rs2 : Reg) (s : State) : Host.Outcome State Fault Refusal := .next (s.fxu2 Fx.mul rd rs1 rs2)

/-- DIV (R116). -/
def execDiv (rd rs1 rs2 : Reg) (s : State) : Host.Outcome State Fault Refusal := .next (s.fxu2 Fx.div rd rs1 rs2)

/-- MOD (R117). -/
def execMod (rd rs1 rs2 : Reg) (s : State) : Host.Outcome State Fault Refusal := .next (s.fxu2 Fx.mod rd rs1 rs2)

/-- NEG (R112). -/
def execNeg (rd rs1 : Reg) (s : State) : Host.Outcome State Fault Refusal := .next (s.fxu1 Fx.neg rd rs1)

/-- ABS (R113). -/
def execAbs (rd rs1 : Reg) (s : State) : Host.Outcome State Fault Refusal := .next (s.fxu1 Fx.abs rd rs1)

end Sys2Proof.Machine
end

