-- ==== Sys2Proof/Machine/CapTable.lean ====
section
/-!
DEFINITION. How a family's capability tables (44_bwe_init.md R190 to R193) are formed from raw contents, which are OPEN:
`raw version stoney k` is what DCEIP slot k of a family would hold, `raw version k` what VBIOS slot k would. What R192 states
of the pipe counts, of the Stoney variant and of the clocks, and what 10_state.md R30 states of a BOOL slot, holds of every
table formed here, and every table of which it holds is formed from itself (log entry 13).
-/

namespace Sys2Proof.Machine

/-- number_of_graphics_pipes of a family (R192, D36). -/
def capGraphicsPipes (version : Nat) (stoney : Bool) : W64 :=
  if version = 1 then (if stoney then 2 else 3) else 6

/-- A slot of DCEIP that the BWE writes: predownscaler_capable, slot 16, is a BOOL and is written as 0 or 1 (10_state.md R30,
R31). -/
def dceipWord (k : Nat) (w : W64) : W64 := if k = 16 then wordOfBool (boolOfWord w) else w

/-- DCEIP slot k of a family's table (R192): the Stoney variant differs from the base APU only in slots 0 to 7. -/
def tableDceipSlot (raw : Nat → Bool → Nat → W64) (version : Nat) (stoney : Bool) (k : Nat) : W64 :=
  if k = 0 then capGraphicsPipes version stoney
  else if k < 8 then raw version stoney k
  else dceipWord k (raw version false k)

/-- A word, or 1 raw where it is not positive. -/
def atLeastOneRaw (w : W64) : W64 := if Fx.gt w 0 then w else 1

/-- The t-th of three words in rising order from slot `base`, the first positive (R192). -/
def risingSlot (raw : Nat → W64) (base : Nat) : Nat → W64
  | 0 => atLeastOneRaw (raw base)
  | t + 1 => Fx.max (risingSlot raw base t) (raw (base + (t + 1)))

/-- VBIOS slot k of a family's table (R192): sclk, yclk and max dispclk rise from low to high and are positive. -/
def tableVbiosSlot (raw : Nat → Nat → W64) (version k : Nat) : W64 :=
  if k < 9 then risingSlot (raw version) (k / 3 * 3) (k % 3) else raw version k

end Sys2Proof.Machine
end

