-- ==== Sys2Proof/Machine/Load.lean ====
section
/-!
DEFINITION. How a BWE command reads DCEIP, VBIOS and MODE (10_state.md R30 to R34), MODE_LEGAL (45_bwe_calculate.md
R200), and the fault of a field that holds no value (70_reset_and_hazards.md R311, R313; log entries 2, 3 and 9).
-/

namespace Sys2Proof.Machine

/-- The first of these slots that holds no value. -/
def firstUnwritten (m : Memory) (offsets : List Nat) : Option Nat := offsets.find? fun a => (m.slot a).isNone

/-- Slot k of a record, read where it is known to hold a value. -/
def recordSlot (m : Memory) (base k : Nat) : W64 := (m.slot (slotOffset base k)).getD 0

/-- A record as a function: slot k, none while it holds no value. -/
def recordSlots (m : Memory) (base k : Nat) : Option W64 := m.slot (slotOffset base k)

/-- The reserved slots of a record from k to 255, which the stage formulas may read (R30, R231). One that nothing has written is none:
CALC goes on with it and does not fault, so that a formula's answer may depend on whether the slot has been written. Whether the fault of
R311, which names the fields that a rule reads, covers such a slot the spec does not say (DESIGN CHOICE, log entry 10). -/
def reservedSlots (raw : Nat → Option W64) (k : Nat) : List (Option W64) := (List.range (256 - k)).map fun j => raw (k + j)

/-! ## DCEIP and VBIOS -/

/-- The offsets of the named slots of DCEIP (0 to 18) and VBIOS (0 to 14), which the CALC rules read (R31, R32, R313). -/
def capabilityOffsets : List Nat :=
  (List.range 19).map (slotOffset dceipBase) ++ (List.range 15).map (slotOffset vbiosBase)

/-- DCEIP (R31) of these slots. -/
def dceipOfSlots (raw : Nat → Option W64) : Dceip where
  numberOfGraphicsPipes := (raw 0).getD 0
  numberOfUnderlayPipes := (raw 1).getD 0
  numberOfWritebackPipes := (raw 2).getD 0
  lbSizeGraphics := (raw 3).getD 0
  lbSizeUnderlay420Luma := (raw 4).getD 0
  lbSizeUnderlay420Chroma := (raw 5).getD 0
  lbSizeUnderlay422 := (raw 6).getD 0
  lbSizeUnderlay444 := (raw 7).getD 0
  vscalerEfficiency :=
    ((raw 8).getD 0, (raw 9).getD 0, (raw 10).getD 0, (raw 11).getD 0)
  chunkWidth := (raw 12).getD 0
  pteRequestQueueSize := (raw 13).getD 0
  scatterGatherLimit := (raw 14).getD 0
  dispclkRampingFactor := (raw 15).getD 0
  predownscalerCapable := boolOfWord ((raw 16).getD 0)
  globalRequestBufferSize := (raw 17).getD 0
  singleDisplayGraphicsBufferFactor := (raw 18).getD 0
  ext := reservedSlots raw 19

/-- DCEIP (R31). -/
def loadDceip (m : Memory) : Dceip := dceipOfSlots (recordSlots m dceipBase)

/-- VBIOS (R32) of these slots. -/
def vbiosOfSlots (raw : Nat → Option W64) : Vbios where
  sclk := ⟨(raw 0).getD 0, (raw 1).getD 0, (raw 2).getD 0⟩
  yclk := ⟨(raw 3).getD 0, (raw 4).getD 0, (raw 5).getD 0⟩
  maxDispclk := ⟨(raw 6).getD 0, (raw 7).getD 0, (raw 8).getD 0⟩
  numberOfDramChannels := (raw 9).getD 0
  dramChannelWidthInBits := (raw 10).getD 0
  urgentLatency := (raw 11).getD 0
  nbpStateChangeLatency := (raw 12).getD 0
  selfRefreshExitLatency := (raw 13).getD 0
  blackoutDuration := (raw 14).getD 0
  ext := reservedSlots raw 15

/-- VBIOS (R32). -/
def loadVbios (m : Memory) : Vbios := vbiosOfSlots (recordSlots m vbiosBase)

/-! ## MODE (R33): `raw k` is slot k -/

/-- Slot j of display k. -/
def displaySlot (k j : Nat) : Nat := 16 + 16 * k + j

/-- Some display below min(n, 2) uses the underlay (R200). -/
def underlayUsed (raw : Nat → W64) (n : Nat) : Bool := (decide (0 < n) && raw 4 != 0) || (decide (1 < n) && raw 5 != 0)

/-- The write-back surface is used: writeback_enable and n ≥ 1 (R200). -/
def writebackUsed (raw : Nat → W64) (n : Nat) : Bool := boolOfWord (raw 3) && decide (1 ≤ n)

/-- An FXP field that must be above 0 (R33). -/
def positiveField (w : W64) : Bool := Fx.gt w 0

/-- Taps: 1 to 16 (R33). -/
def tapsLegal (w : W64) : Bool := decide (1 ≤ w.toNat ∧ w.toNat ≤ 16)

/-- Bytes per pixel: 1, 2, 4 or 8 (R33). -/
def bytesPerPixelLegal (w : W64) : Bool := w == 1 || w == 2 || w == 4 || w == 8

/-- Rotation: 0, 90, 180 or 270 (R33). -/
def rotationLegal (w : W64) : Bool := w == 0 || w == 90 || w == 180 || w == 270

/-- number_of_displays is in 0..6 (R200). -/
def displayCountLegal (w : W64) : Bool := decide (w.toNat ≤ 6)

/-- The global ENUM fields hold legal codes (R200); every BOOL value is legal (R30). -/
def globalsLegal (raw : Nat → W64) : Bool :=
  (underlayFormatOfCode (raw 1)).isSome && (panningOfCode (raw 2)).isSome && (underlayModeOfCode (raw 4)).isSome
    && (underlayModeOfCode (raw 5)).isSome

/-- Display k's fields are legal (R200, R33). -/
def displayLegal (raw : Nat → W64) (k : Nat) : Bool :=
  (List.range 6).all (fun j => positiveField (raw (displaySlot k j)))
    && tapsLegal (raw (displaySlot k 6)) && tapsLegal (raw (displaySlot k 7))
    && bytesPerPixelLegal (raw (displaySlot k 8)) && rotationLegal (raw (displaySlot k 9))
    && (stereoModeOfCode (raw (displaySlot k 10))).isSome && (tilingModeOfCode (raw (displaySlot k 12))).isSome

/-- The underlay fields are legal (R200, R33). -/
def underlayLegal (raw : Nat → W64) : Bool :=
  (List.range 4).all (fun j => positiveField (raw (112 + j))) && tapsLegal (raw 116) && tapsLegal (raw 117)
    && rotationLegal (raw 118) && (tilingModeOfCode (raw 119)).isSome

/-- The write-back fields are legal (R200, R33). -/
def writebackLegal (raw : Nat → W64) : Bool :=
  (List.range 4).all (fun j => positiveField (raw (128 + j))) && tapsLegal (raw 132) && tapsLegal (raw 133)
    && bytesPerPixelLegal (raw 134) && (tilingModeOfCode (raw 135)).isSome

/-- MODE_LEGAL (R200), every bullet of it; `n` is `raw 0`. -/
def modeLegal (raw : Nat → W64) : Bool :=
  displayCountLegal (raw 0) && globalsLegal raw && (List.range (raw 0).toNat).all (displayLegal raw)
    && (!underlayUsed raw (raw 0).toNat || underlayLegal raw)
    && (!writebackUsed raw (raw 0).toNat || writebackLegal raw)

/-- The MODE slots, besides slot 0, that a command with `n` displays needs (R313 step 3): the global fields, the fields
of each display k < n, the underlay fields if used, the write-back fields if used. -/
def modeSlotsNeeded (raw : Nat → W64) (n : Nat) : List Nat :=
  [1, 2, 3, 4, 5] ++ (List.range n).flatMap (fun k => (List.range 15).map (displaySlot k))
    ++ (if underlayUsed raw n then (List.range 9).map (112 + ·) else [])
    ++ (if writebackUsed raw n then (List.range 8).map (128 + ·) else [])

/-- Display k of a legal MODE. -/
def loadDisplay (raw : Nat → W64) (k : Nat) : Display where
  hTotal := raw (displaySlot k 0)
  pixelRate := raw (displaySlot k 1)
  srcWidth := raw (displaySlot k 2)
  srcHeight := raw (displaySlot k 3)
  hsr := raw (displaySlot k 4)
  vsr := raw (displaySlot k 5)
  hTaps := raw (displaySlot k 6)
  vTaps := raw (displaySlot k 7)
  bytesPerPixel := raw (displaySlot k 8)
  rotationAngle := raw (displaySlot k 9)
  stereoMode := (stereoModeOfCode (raw (displaySlot k 10))).getD default
  interlace := boolOfWord (raw (displaySlot k 11))
  tilingMode := (tilingModeOfCode (raw (displaySlot k 12))).getD default
  fbcEnable := boolOfWord (raw (displaySlot k 13))
  scatterGatherEnable := boolOfWord (raw (displaySlot k 14))

/-- The underlay fields of a legal MODE. -/
def loadUnderlay (raw : Nat → W64) : Underlay where
  srcWidth := raw 112
  srcHeight := raw 113
  hsr := raw 114
  vsr := raw 115
  hTaps := raw 116
  vTaps := raw 117
  rotationAngle := raw 118
  tilingMode := (tilingModeOfCode (raw 119)).getD default
  scatterGatherEnable := boolOfWord (raw 120)

/-- The write-back fields of a legal MODE. -/
def loadWriteback (raw : Nat → W64) : Writeback where
  srcWidth := raw 128
  srcHeight := raw 129
  hsr := raw 130
  vsr := raw 131
  hTaps := raw 132
  vTaps := raw 133
  bytesPerPixel := raw 134
  tilingMode := (tilingModeOfCode (raw 135)).getD default

/-- A legal MODE as typed data (R34: the identity on its fields). -/
def modeOfSlots (raw : Nat → W64) : Mode where
  displays := (List.range (raw 0).toNat).map (loadDisplay raw)
  underlayFormat := (underlayFormatOfCode (raw 1)).getD default
  panning := (panningOfCode (raw 2)).getD default
  writebackEnable := boolOfWord (raw 3)
  d0UnderlayMode := (underlayModeOfCode (raw 4)).getD default
  d1UnderlayMode := (underlayModeOfCode (raw 5)).getD default
  underlay := if underlayUsed raw (raw 0).toNat then loadUnderlay raw else default
  writeback := if writebackUsed raw (raw 0).toNat then loadWriteback raw else default

/-- What reading MODE gives. -/
inductive ModeLoad
  | legal (m : Mode)
  | illegal
  | unwritten (offset : Nat)
  deriving DecidableEq, Repr

/-- Read MODE and apply MODE_LEGAL. A number of displays outside 0..6 is illegal whatever the other slots hold; else a
needed slot that holds no value is the fault of R311; else MODE_LEGAL decides (log entry 3). -/
def loadMode (m : Memory) : ModeLoad :=
  match m.slot (slotOffset modeBase 0) with
  | none => .unwritten (slotOffset modeBase 0)
  | some n =>
    if displayCountLegal n then
      match firstUnwritten m ((modeSlotsNeeded (recordSlot m modeBase) n.toNat).map (slotOffset modeBase)) with
      | some a => .unwritten a
      | none => if modeLegal (recordSlot m modeBase) then .legal (modeOfSlots (recordSlot m modeBase)) else .illegal
    else .illegal

end Sys2Proof.Machine
end

