-- ==== Sys2Proof/Machine/Calc.lean ====
section
/-!
DEFINITION. CALC_CORE, the 13 stages of the bandwidth calculation (45_bwe_calculate.md R201 to R235), over typed records.
A calculation is a step on `CalcState`: the RESULTS being built, the conditions raised so far and the counter of free
values. It reads DCEIP, VBIOS, MODE and the OPEN parameters from `CalcEnv` and nothing else (R232).
-/

namespace Sys2Proof.Machine

open Config (StageProgram StageOp FxUnary FxBinary Ext)

/-! ## The calculation's state -/

/-- What a CALC_CORE reads: the parameters, DCEIP, VBIOS (in BWCALCS the pass's working copy) and MODE. -/
structure CalcEnv where
  params : Config.BweParams
  dceip : Dceip
  vbios : Vbios
  mode : Mode

/-- What a CALC_CORE builds: RESULTS, the conditions raised (R235) and the counter of free values. -/
structure CalcState where
  results : Results
  dz : Bool
  ov : Bool
  draws : Nat
  deriving DecidableEq, Repr

/-- A calculation that answers an `α`. -/
abbrev CalcM (α : Type) := StateM CalcState α

/-- The RESULTS built so far. -/
def getResults : CalcM Results := fun c => (c.results, c)

/-- A change to RESULTS. -/
def changeResults (f : Results → Results) : CalcM Unit := fun c => ((), { c with results := f c.results })

/-- An FXU operation inside the BWE (R15, R235): its result, its condition recorded; a free value on DZ. -/
def fxOp : FxResult → CalcM W64
  | .exact v => fun c => (v, c)
  | .overflow v => fun c => (v, { c with ov := true })
  | .divByZero => fun c => (Config.draw c.draws, { c with dz := true, draws := c.draws + 1 })

/-! ## Extension fields of `STAGE_FNS` (R231, constraint 3) -/

/-- A sparse table kept by rising slot number without zeros: an unlisted slot is 0. -/
def setExtSlot : List (Nat × W64) → Nat → W64 → List (Nat × W64)
  | [], k, v => if v = 0 then [] else [(k, v)]
  | e :: l, k, v =>
    if k < e.1 then (if v = 0 then e :: l else (k, v) :: e :: l)
    else if k = e.1 then (if v = 0 then l else (k, v) :: l)
    else e :: setExtSlot l k v

/-- The value of a slot of the sparse table. -/
def extSlot (l : List (Nat × W64)) (k : Nat) : W64 := ((l.find? fun e => e.1 == k).map (·.2)).getD 0

/-- Whether surface slot i is enabled. -/
def Results.enabled (r : Results) (i : Slot) : Bool := r.surfaces[i].cls.enable

/-- Whether array element i (0 to 15) belongs to an enabled surface slot. -/
def Results.enabledNat (r : Results) (i : Nat) : Bool := if h : i < 12 then r.enabled ⟨i, h⟩ else false

/-- A RESULTS slot a stage formula may write: the reserved scalars 100 to 127, and arrays 36 to 119 of an enabled slot
(R231 constraint 3; a disabled slot's fields stay 0, R202; that this covers the extension arrays is log entry 11). -/
def Results.extAllowed (r : Results) (k : Nat) : Bool :=
  (decide (100 ≤ k) && decide (k < 128))
    || (decide (128 + 16 * 36 ≤ k) && decide (k < 2048) && r.enabledNat ((k - 128) % 16))

/-- The extension writes of one call; a write elsewhere is not made. -/
def Results.writeExt (r : Results) (writes : List (Nat × W64)) : Results :=
  writes.foldl (fun r w => if r.extAllowed w.1 then { r with ext := setExtSlot r.ext w.1 w.2 } else r) r

/-! ## Stage formulas (R231, R235)

A formula's FXU operations run one after the other as every FXU operation inside the BWE does: DZ and OV are recorded, and a
division by zero gives a free value, with which the formula goes on. -/

/-- An FXU operation of one operand. -/
def unaryResult : FxUnary → W64 → FxResult
  | .neg => Fx.neg
  | .abs => Fx.abs
  | .fromint => Fx.fromInt
  | .toint => Fx.toInt

/-- An FXU operation of two operands. -/
def binaryResult : FxBinary → W64 → W64 → FxResult
  | .add, a, b => Fx.add a b
  | .sub, a, b => Fx.sub a b
  | .mul, a, b => Fx.mul a b
  | .div, a, b => Fx.div a b
  | .mod, a, b => Fx.mod a b
  | .floor, a, b => Fx.floor a b
  | .ceil, a, b => Fx.ceil a b
  | .fromfrac, a, b => Fx.fromFrac a b
  | .min, a, b => .exact (Fx.min a b)
  | .max, a, b => .exact (Fx.max a b)
  | .clt, a, b => .exact (Fx.truth (Fx.lt a b))
  | .cle, a, b => .exact (Fx.truth (Fx.le a b))
  | .ceq, a, b => .exact (Fx.truth (Fx.eq a b))
  | .cne, a, b => .exact (Fx.truth (Fx.ne a b))
  | .cgt, a, b => .exact (Fx.truth (Fx.gt a b))
  | .cge, a, b => .exact (Fx.truth (Fx.ge a b))

/-- The result of an earlier step of a formula; 0 where there is none. -/
def stepResult (done : List W64) (k : Nat) : W64 := done.getD k 0

/-- What one step of a formula gives, after the steps whose results are `done`. -/
def opResult (done : List W64) : StageOp → FxResult
  | .word w => .exact w
  | .unary op a => unaryResult op (stepResult done a)
  | .binary op a b => binaryResult op (stepResult done a) (stepResult done b)
  | .select c a b => .exact (if stepResult done c = 0 then stepResult done b else stepResult done a)

/-- The results of a formula's steps, after those in `done`. -/
def runOps : List StageOp → List W64 → CalcM (List W64)
  | [], done => pure done
  | op :: ops, done => do
    let w ← fxOp (opResult done op)
    runOps ops (done ++ [w])

/-- One call of a stage formula: its FXU operations are made, its extension fields written, its value answered. It is handed the
reserved slots of DCEIP and VBIOS as they are, one that nothing has written as none, and raises no fault for it: the spec does not say
whether R311 covers such a slot (DESIGN CHOICE, log entry 10). -/
def callStage (env : CalcEnv) (f : Ext → StageProgram) : CalcM W64 := do
  let r ← getResults
  let p := f ⟨env.dceip.ext, env.vbios.ext, r.ext⟩
  let done ← runOps p.ops []
  changeResults fun r => r.writeExt (p.ext.map fun w => (w.1, stepResult done w.2))
  return stepResult done p.value

/-! ## Loops over the surface slots (R202) -/

/-- The slots in rising order. -/
def allSlots : List Slot := [0, 1, 2, 3, 4, 5, 6, 7, 8, 9, 10, 11]

/-- The surface of a slot. -/
def getSurface (i : Slot) : CalcM Surface := fun c => (c.results.surfaces[i], c)

/-- A change to one slot's surface. -/
def changeSurface (i : Slot) (f : Surface → Surface) : CalcM Unit :=
  changeResults fun r => { r with surfaces := r.surfaces.set i (f r.surfaces[i]) }

/-- The enable guard: `f i` for each enabled slot i, in rising order. -/
def forEnabled (f : Slot → CalcM Unit) : CalcM Unit :=
  allSlots.forM fun i => do
    let s ← getSurface i
    if s.cls.enable then f i

/-- The enabled slots with what `view` takes of each. -/
def Results.enabledViews {α : Type} (r : Results) (view : Surface → α) : List (Slot × α) :=
  (allSlots.filter r.enabled).map fun i => (i, view r.surfaces[i])

/-- A sum by ADD, from 0, in the order of the list (R202, R15; log entry 16). -/
def sumWords (ws : List W64) : CalcM W64 := ws.foldlM (fun acc w => fxOp (Fx.add acc w)) 0

/-- `f` for each of the three tiers, low first. -/
def forTiers {α : Type} (f : Tier → CalcM α) : CalcM (PerTier α) := do
  let a ← f .low
  let b ← f .mid
  let c ← f .high
  return ⟨a, b, c⟩

/-- A write-back slot. -/
def SurfaceType.isWriteback : SurfaceType → Bool
  | .writebackLuma | .writebackChroma => true
  | _ => false

/-- `FX(n)` as the BWE's constants use it. -/
def fx (n : Int) : W64 := Fx.ofInteger n

/-! ## Stage 1: surface classification (R204 to R206) -/

/-- The underlay slot of display u for one plane (R204). The chroma slot is used only by 420. -/
def classifyUnderlay (env : CalcEnv) (u : Nat) (plane : Plane) : SurfClass :=
  if u < env.mode.n ∧ env.mode.underlayMode u ≠ .none then
    match plane, env.mode.underlayFormat with
    | .luma, .f420 =>
      { enable := true, surfaceType := .underlay420Luma, bytesPerPixel := env.params.ulBpp .f420 .luma, displayIndex := u }
    | .luma, .f422 =>
      { enable := true, surfaceType := .underlay422, bytesPerPixel := env.params.ulBpp .f422 .luma, displayIndex := u }
    | .luma, .f444 =>
      { enable := true, surfaceType := .underlay444, bytesPerPixel := env.params.ulBpp .f444 .luma, displayIndex := u }
    | .chroma, .f420 =>
      { enable := true, surfaceType := .underlay420Chroma, bytesPerPixel := env.params.ulBpp .f420 .chroma
        displayIndex := u }
    | .chroma, _ => {}
  else {}

/-- The graphics slot of display k (R205). -/
def classifyGraphics (env : CalcEnv) (k : Nat) : SurfClass :=
  if k < env.mode.n ∧ env.mode.underlayMode k ≠ .underlayOnly then
    { enable := true
      surfaceType := .graphics
      useAlpha := env.mode.underlayMode k == .blended
      bytesPerPixel := (env.mode.display k).bytesPerPixel
      displayIndex := k }
  else {}

/-- A write-back slot (R206). -/
def classifyWriteback (env : CalcEnv) (t : SurfaceType) : SurfClass :=
  if env.mode.writebackEnable ∧ 1 ≤ env.mode.n then
    { enable := true, surfaceType := t, bytesPerPixel := env.mode.writeback.bytesPerPixel, displayIndex := 0 }
  else {}

/-- The role of each slot (R201). -/
def classify (env : CalcEnv) (i : Slot) : SurfClass :=
  match i.val with
  | 0 => classifyUnderlay env 0 .luma
  | 1 => classifyUnderlay env 0 .chroma
  | 2 => classifyUnderlay env 1 .luma
  | 3 => classifyUnderlay env 1 .chroma
  | 10 => classifyWriteback env .writebackLuma
  | 11 => classifyWriteback env .writebackChroma
  | j => classifyGraphics env (j - 4)

/-- Stage 1. -/
def stage1 (env : CalcEnv) : CalcM Unit :=
  changeResults fun r =>
    { r with surfaces := Vector.ofFn fun (i : Slot) => { r.surfaces[i] with cls := classify env i } }

/-! ## Stage 2: geometry and scaling normalisation (R207 to R212) -/

/-- `R.orthogonal_rotation[i]`: the angle is 90 or 270 (R207). -/
def isOrthogonal (angle : W64) : Bool := angle == 90 || angle == 270

/-- The fields a graphics slot copies from its display (R207). -/
def graphicsGeometry (d : Display) : SurfGeometry :=
  { sourceWidth := d.srcWidth, sourceHeight := d.srcHeight, hsr := d.hsr, vsr := d.vsr
    hTaps := d.hTaps, vTaps := d.vTaps, rotationAngle := d.rotationAngle
    stereoMode := d.stereoMode, interlace := d.interlace, tilingMode := d.tilingMode
    orthogonalRotation := isOrthogonal d.rotationAngle, scatterGatherEnable := d.scatterGatherEnable }

/-- The fields an underlay slot copies: the shared underlay's, with the stereo mode and interlace of its display (R207). -/
def underlayGeometry (u : Underlay) (d : Display) : SurfGeometry :=
  { sourceWidth := u.srcWidth, sourceHeight := u.srcHeight, hsr := u.hsr, vsr := u.vsr
    hTaps := u.hTaps, vTaps := u.vTaps, rotationAngle := u.rotationAngle
    stereoMode := d.stereoMode, interlace := d.interlace, tilingMode := u.tilingMode
    orthogonalRotation := isOrthogonal u.rotationAngle, scatterGatherEnable := u.scatterGatherEnable }

/-- The fields a write-back slot copies (R207): no rotation, mono, not interlaced, no scatter-gather. -/
def writebackGeometry (w : Writeback) : SurfGeometry :=
  { sourceWidth := w.srcWidth, sourceHeight := w.srcHeight, hsr := w.hsr, vsr := w.vsr
    hTaps := w.hTaps, vTaps := w.vTaps, tilingMode := w.tilingMode }

/-- The copy of R207 for a slot's role. -/
def sourceGeometry (env : CalcEnv) (c : SurfClass) : SurfGeometry :=
  match c.surfaceType with
  | .graphics => graphicsGeometry (env.mode.display c.displayIndex)
  | .writebackLuma | .writebackChroma => writebackGeometry env.mode.writeback
  | _ => underlayGeometry env.mode.underlay (env.mode.display c.displayIndex)

/-- A 420 chroma plane (R208). -/
def SurfaceType.isChroma : SurfaceType → Bool
  | .underlay420Chroma | .writebackChroma => true
  | _ => false

/-- 420 chroma halving (R208). -/
def halveChroma (t : SurfaceType) (g : SurfGeometry) : CalcM SurfGeometry := do
  if t.isChroma then
    let width ← fxOp (Fx.div g.sourceWidth (fx 2))
    let height ← fxOp (Fx.div g.sourceHeight (fx 2))
    let hsr ← fxOp (Fx.div g.hsr (fx 2))
    let vsr ← fxOp (Fx.div g.vsr (fx 2))
    return { g with sourceWidth := width, sourceHeight := height, hsr := hsr, vsr := vsr }
  else
    return g

/-- Rotation swap of a slot that is not graphics (R209). -/
def swapRotated (t : SurfaceType) (g : SurfGeometry) : SurfGeometry :=
  if t ≠ .graphics ∧ g.orthogonalRotation then
    { g with sourceWidth := g.sourceHeight, sourceHeight := g.sourceWidth, hsr := g.vsr, vsr := g.hsr }
  else g

/-- Stereo doubling (R210). -/
def doubleStereo (g : SurfGeometry) : CalcM SurfGeometry := do
  match g.stereoMode with
  | .sideBySide =>
    let width ← fxOp (Fx.mul g.sourceWidth (fx 2))
    return { g with sourceWidth := width }
  | .topBottom =>
    let height ← fxOp (Fx.mul g.sourceHeight (fx 2))
    return { g with sourceHeight := height }
  | .mono => return g

/-- Interlace doubling (R211). -/
def doubleInterlaced (g : SurfGeometry) : CalcM SurfGeometry := do
  if g.interlace then
    let vsr ← fxOp (Fx.mul g.vsr (fx 2))
    return { g with vsr := vsr }
  else
    return g

/-- The chunk quantum `q` (R212). -/
def chunkQuantum (p : Panning) : W64 := if p ≠ .none then fx Config.chunkPan else fx Config.chunk

/-- Chunk rounding (R212). -/
def roundToChunks (p : Panning) (g : SurfGeometry) : CalcM SurfGeometry := do
  let width ← fxOp (Fx.ceil g.sourceWidth (chunkQuantum p))
  return { g with widthRoundedUpToChunks := width }

/-- The geometry of one enabled slot, R207 to R212 in order. -/
def slotGeometry (env : CalcEnv) (c : SurfClass) : CalcM SurfGeometry := do
  let halved ← halveChroma c.surfaceType (sourceGeometry env c)
  let doubled ← doubleStereo (swapRotated c.surfaceType halved)
  let interlaced ← doubleInterlaced doubled
  roundToChunks env.mode.panning interlaced

/-- Stage 2. -/
def stage2 (env : CalcEnv) : CalcM Unit :=
  forEnabled fun i => do
    let s ← getSurface i
    let g ← slotGeometry env s.cls
    changeSurface i fun s => { s with geo := g }

/-! ## Stage 3: mode-support checks (R213 to R218) -/

/-- How many of these slots are enabled. -/
def Results.countEnabled (r : Results) (slots : List Slot) : Nat := (slots.filter r.enabled).length

/-- A count within a pipe limit: signed integers (R213). -/
def withinPipes (count : Nat) (limit : W64) : Bool := decide ((count : Int) ≤ limit.toInt)

/-- Pipe check (R213). Underlays are counted by display, not by plane. -/
def checkPipes (d : Dceip) (r : Results) : Results :=
  let graphics := r.countEnabled [4, 5, 6, 7, 8, 9]
  let underlay := r.countEnabled [0, 2]
  let writeback := r.countEnabled [10]
  { r with
    numberOfEnabledGraphics := graphics
    numberOfEnabledUnderlay := underlay
    numberOfEnabledWriteback := writeback
    pipeCheck :=
      if withinPipes graphics d.numberOfGraphicsPipes && withinPipes underlay d.numberOfUnderlayPipes
        && withinPipes writeback d.numberOfWritebackPipes then .ok else .notok }

/-- Scale-ratio checks of one slot (R214). -/
def checkRatios (env : CalcEnv) (i : Slot) : CalcM Unit := do
  let s ← getSurface i
  if !s.cls.surfaceType.isWriteback then
    if !env.params.hsrVsrOk .horizontal s.geo.hsr s.geo.hTaps env.dceip.predownscalerCapable s.cls.surfaceType then
      changeResults fun r => { r with hsrCheck := .hsrNotSupportedByTaps }
    if !env.params.hsrVsrOk .vertical s.geo.vsr s.geo.vTaps env.dceip.predownscalerCapable s.cls.surfaceType then
      changeResults fun r => { r with vsrCheck := .vsrNotSupportedByTaps }

/-- The line-buffer size for a surface type (R31, R231). -/
def lbSizeFor (d : Dceip) : SurfaceType → W64
  | .underlay420Luma => d.lbSizeUnderlay420Luma
  | .underlay420Chroma => d.lbSizeUnderlay420Chroma
  | .underlay422 => d.lbSizeUnderlay422
  | .underlay444 => d.lbSizeUnderlay444
  | _ => d.lbSizeGraphics

/-- Line-buffer check of one slot (R215). -/
def checkLineBuffer (env : CalcEnv) (i : Slot) : CalcM Unit := do
  let s ← getSurface i
  if !s.cls.surfaceType.isWriteback then
    let partitions ← callStage env fun x => env.params.stage.lbPartitions x i
      { surfaceType := s.cls.surfaceType, lbSize := lbSizeFor env.dceip s.cls.surfaceType
        widthRoundedUpToChunks := s.geo.widthRoundedUpToChunks, bytesPerPixel := s.cls.bytesPerPixel
        hTaps := s.geo.hTaps, hsr := s.geo.hsr }
    changeSurface i fun s => { s with lbPartitions := partitions }
    let needed ← fxOp (Fx.fromInt (s.geo.vTaps + 1))
    if Fx.lt partitions needed then
      changeResults fun r => { r with lbSizeCheck := .notok }

/-- FBC check of one slot (R216). -/
def checkFbc (env : CalcEnv) (i : Slot) : CalcM Unit := do
  let s ← getSurface i
  if s.cls.surfaceType == .graphics && (env.mode.display s.cls.displayIndex).fbcEnable then
    if s.geo.rotationAngle != 0 || s.geo.stereoMode != .mono || s.cls.bytesPerPixel != 4 then
      changeResults fun r => { r with fbcCheck := .invalidRotationOrBppOrStereo }

/-- Rotation check of one slot (R217). -/
def checkRotation (i : Slot) : CalcM Unit := do
  let s ← getSurface i
  if s.geo.rotationAngle != 0 then
    if s.geo.tilingMode == .linear || s.geo.stereoMode != .mono then
      changeResults fun r => { r with rotationCheck := .invalidLinearOrStereoMode }

/-- Mode check (R218). -/
def checkMode (r : Results) : Results :=
  { r with
    modeCheck :=
      if r.pipeCheck = .ok ∧ r.hsrCheck = .ok ∧ r.vsrCheck = .ok ∧ r.lbSizeCheck = .ok ∧ r.fbcCheck = .ok
        ∧ r.rotationCheck = .ok then .ok else .notok }

/-- Stage 3. -/
def stage3 (env : CalcEnv) : CalcM Unit := do
  changeResults (checkPipes env.dceip)
  forEnabled (checkRatios env)
  forEnabled (checkLineBuffer env)
  forEnabled (checkFbc env)
  forEnabled checkRotation
  changeResults checkMode

/-! ## Stage 4: memory-request characterisation (R219) -/

/-- The useful bytes halved for an 8bpp tiled orthogonal rotation (R219). -/
def halveUsefulBytes (s : Surface) (u : W64) : CalcM W64 := do
  if s.cls.bytesPerPixel == 1 && s.geo.tilingMode == .tiled && s.geo.orthogonalRotation then
    fxOp (Fx.div u (fx 2))
  else
    return u

/-- What stage 4's functions read of a slot (R231). -/
def requestReads (env : CalcEnv) (s : Surface) : Config.RequestReads :=
  { tilingMode := s.geo.tilingMode, bytesPerPixel := s.cls.bytesPerPixel
    orthogonalRotation := s.geo.orthogonalRotation, surfaceType := s.cls.surfaceType
    chunkWidth := env.dceip.chunkWidth, dramChannelWidthInBits := env.vbios.dramChannelWidthInBits }

/-- Stage 4. -/
def stage4 (env : CalcEnv) : CalcM Unit :=
  forEnabled fun i => do
    let s ← getSurface i
    let bytes ← callStage env fun x => env.params.stage.bytesPerRequest x i (requestReads env s)
    let useful ← callStage env fun x => env.params.stage.usefulBytesPerRequest x i (requestReads env s)
    let useful ← halveUsefulBytes s useful
    let lines ← callStage env fun x => env.params.stage.linesInterleaved x i (requestReads env s)
    let latencyLines ← callStage env fun x => env.params.stage.latencyHidingLines x i (requestReads env s)
    changeSurface i fun s =>
      { s with req := { bytesPerRequest := bytes, usefulBytesPerRequest := useful, linesInterleaved := lines
                        latencyHidingLines := latencyLines } }

/-! ## Stage 5: peak request bandwidth (R220 to R222) -/

/-- The stereo top-bottom clamp of v_filter_init (R220). -/
def clampFilterInit (m : StereoMode) (f : W64) : W64 :=
  if m = .topBottom then Fx.min f (fx Config.topBottomFilterInitClamp) else f

/-- Prefetch eligibility (R220). -/
def prefetchEligible (p : Panning) (s : Surface) : Bool :=
  !((s.cls.surfaceType == .graphics && (Fx.gt s.geo.hsr (fx 1) || Fx.gt s.geo.vsr (fx 1))) || p == .oddLines)

/-- The word of 4/3 in the snap set, FROMFRAC(4, 3) (R221). -/
def fourThirds : W64 := 0x1555555

/-- The word of 3/2 in the snap set, FROMFRAC(3, 2) (R221). -/
def threeHalves : W64 := 0x1800000

/-- vsr snapped up to the set of R221, without prefetching. -/
def snapLines (v : W64) : W64 :=
  if Fx.le v (fx 1) then fx 1
  else if Fx.le v fourThirds then fourThirds
  else if Fx.le v threeHalves then threeHalves
  else if Fx.le v (fx 2) then fx 2
  else if Fx.le v (fx 3) then fx 3
  else fx 4

/-- The middle lines-in-per-line-out value (R221). -/
def linesMiddle (eligible : Bool) (vsr : W64) : W64 := if eligible then vsr else snapLines vsr

/-- Stage 5. R220, R221 and R222 each begin 'For each enabled slot i'; the model runs the stage as one loop that makes all three for
a slot before the next slot, as R202 speaks of a stage. The order shows only in extension fields and in which free value a formula
draws (DESIGN CHOICE, log entry 16). -/
def stage5 (env : CalcEnv) : CalcM Unit :=
  forEnabled fun i => do
    let s ← getSurface i
    let f ← callStage env fun x => env.params.stage.vFilterInit x i
      { vTaps := s.geo.vTaps, vsr := s.geo.vsr, interlace := s.geo.interlace }
    let f := clampFilterInit s.geo.stereoMode f
    let eligible := prefetchEligible env.mode.panning s
    let beginning ← callStage env fun x => env.params.stage.linesInPerLineOutBeginning x i
      { vsr := s.geo.vsr, vFilterInit := f, lbPrefetchEligible := eligible }
    let middle := linesMiddle eligible s.geo.vsr
    let request ← callStage env fun x => env.params.stage.requestBandwidth x i
      { widthRoundedUpToChunks := s.geo.widthRoundedUpToChunks, linesInPerLineOutBeginning := beginning
        linesInPerLineOutMiddle := middle, bytesPerRequest := s.req.bytesPerRequest
        usefulBytesPerRequest := s.req.usefulBytesPerRequest, hsr := s.geo.hsr
        bytesPerPixel := s.cls.bytesPerPixel
        pixelRate := (env.mode.display s.cls.displayIndex).pixelRate
        hTotal := (env.mode.display s.cls.displayIndex).hTotal }
    let display ← fxOp (Fx.mul request s.req.bytesPerRequest)
    changeSurface i fun s =>
      { s with bw := { vFilterInit := f, lbPrefetchEligible := eligible, linesInPerLineOutBeginning := beginning
                       linesInPerLineOutMiddle := middle, requestBandwidth := request, displayBandwidth := display } }

/-! ## Stage 6: outstanding-request budgeting (R223) -/

/-- What the buffer functions read of a slot (R231). -/
def bufferReads (env : CalcEnv) (s : Surface) : Config.BufferReads :=
  { surfaceType := s.cls.surfaceType, numberOfDisplays := env.mode.n
    globalRequestBufferSize := env.dceip.globalRequestBufferSize, req := s.req, bw := s.bw }

/-- The buffer size of one slot before throttling (R223). -/
def setBufferSize (env : CalcEnv) (i : Slot) : CalcM Unit := do
  let s ← getSurface i
  let r ← getResults
  let b ← callStage env fun x => env.params.stage.dataBufferSize x i (bufferReads env s)
  let b ← if s.cls.surfaceType == .graphics && env.mode.n == 1 && !r.enabled 10 then
      fxOp (Fx.mul b env.dceip.singleDisplayGraphicsBufferFactor)
    else pure b
  changeSurface i fun s => { s with buf := { s.buf with dataBufferSize := b } }

/-- Whether the buffers are throttled (R223): more than one display, or the buffers exceed the global request buffer. -/
def mustThrottle (env : CalcEnv) : CalcM Bool := do
  if env.mode.n > 1 then
    return true
  else
    let r ← getResults
    let total ← sumWords ((r.enabledViews fun s => s.buf.dataBufferSize).map (·.2))
    return Fx.gt total env.dceip.globalRequestBufferSize

/-- The throttled buffer size of one slot (R223): at most the unthrottled one, which stands where the formula answers more (log
entry 12). -/
def throttleBuffer (env : CalcEnv) (i : Slot) : CalcM Unit := do
  let s ← getSurface i
  let b ← callStage env fun x => env.params.stage.throttledBufferSize x i (bufferReads env s)
  changeSurface i fun s => { s with buf := { s.buf with dataBufferSize := Fx.min b s.buf.dataBufferSize } }

/-- What the limit functions read of a slot (R231). -/
def limitReads (env : CalcEnv) (s : Surface) : Config.LimitReads :=
  { dataBufferSize := s.buf.dataBufferSize, bytesPerRequest := s.req.bytesPerRequest, tilingMode := s.geo.tilingMode
    orthogonalRotation := s.geo.orthogonalRotation, scatterGatherLimit := env.dceip.scatterGatherLimit }

/-- The request limits of one slot (R223). -/
def setRequestLimits (env : CalcEnv) (i : Slot) : CalcM Unit := do
  let s ← getSurface i
  let chunk ← callStage env fun x => env.params.stage.chunkRequestLimit x i (limitReads env s)
  changeSurface i fun s => { s with buf := { s.buf with outstandingChunkRequestLimit := chunk } }
  if s.geo.scatterGatherEnable then
    let pte ← callStage env fun x => env.params.stage.pteRequestLimit x i (limitReads env s)
    changeSurface i fun s => { s with buf := { s.buf with outstandingPteRequestLimit := pte } }

/-- The PTE total against the queue size (R223). -/
def checkPteRequests (env : CalcEnv) : CalcM Unit := do
  let r ← getResults
  let views := (r.enabledViews fun s => (s.geo.scatterGatherEnable, s.buf.outstandingPteRequestLimit)).map (·.2)
  let total ← sumWords ((views.filter (·.1)).map (·.2))
  let limit ← fxOp (Fx.fromInt env.dceip.pteRequestQueueSize)
  changeResults fun r => { r with pteRequestCheck := if Fx.gt total limit then .exceededPteQueue else .ok }

/-- Stage 6. -/
def stage6 (env : CalcEnv) : CalcM Unit := do
  forEnabled (setBufferSize env)
  let throttle ← mustThrottle env
  if throttle then forEnabled (throttleBuffer env)
  forEnabled (setRequestLimits env)
  checkPteRequests env

/-! ## Stage 7: page close/open and total required bandwidth (R224) -/

/-- The bandwidth totals that stages 7 and 9 compare with what is available. -/
structure Totals where
  dram : W64
  sclk : W64
  deriving DecidableEq, Repr

/-- What stage 7's functions read (R231). -/
def totalReads (env : CalcEnv) (r : Results) : Config.TotalReads :=
  { enabled := r.enabledViews Surface.toSurfaceCore, numberOfDramChannels := env.vbios.numberOfDramChannels
    dramChannelWidthInBits := env.vbios.dramChannelWidthInBits }

/-- The display bandwidths of the enabled slots that are, or are not, write-back. -/
def Results.displayBandwidths (r : Results) (writeback : Bool) : List W64 :=
  ((r.enabledViews fun s => (s.cls.surfaceType.isWriteback, s.bw.displayBandwidth)).filter
    fun v => v.2.1 == writeback).map fun v => v.2.2

/-- What is available at one tier: the DRAM bandwidth, then the sclk bandwidth (R224). -/
def availableAt (env : CalcEnv) (reads : Config.TotalReads) (t : Tier) : CalcM (W64 × W64) := do
  let dram ← callStage env fun x => env.params.stage.availableDramBandwidth x reads (env.vbios.yclk.get t)
  let sclk ← callStage env fun x => env.params.stage.availableSclkBandwidth x reads (env.vbios.sclk.get t)
  return (dram, sclk)

/-- Stage 7. -/
def stage7 (env : CalcEnv) : CalcM Totals := do
  let r ← getResults
  let reads := totalReads env r
  let readSide ← sumWords (r.displayBandwidths false)
  let overhead ← callStage env fun x => env.params.stage.cursorAndPteDramOverhead x reads
  let dmifDram ← fxOp (Fx.add readSide overhead)
  let mcifwrDram ← sumWords (r.displayBandwidths true)
  let dmifSclk ← callStage env fun x => env.params.stage.dmifSclkBandwidth x reads
  let mcifwrSclk ← callStage env fun x => env.params.stage.mcifwrSclkBandwidth x reads
  let totalDram ← fxOp (Fx.add dmifDram mcifwrDram)
  let gbyte ← callStage env fun x => env.params.stage.toGbytePerSecond x reads totalDram
  let available ← forTiers (availableAt env reads)
  let pageOk ← callStage env fun x => env.params.stage.pageCloseOpenOk x reads
  let totalSclk ← fxOp (Fx.add dmifSclk mcifwrSclk)
  changeResults fun r =>
    { r with
      totalDmifDramBandwidth := dmifDram
      totalMcifwrDramBandwidth := mcifwrDram
      totalDmifSclkBandwidth := dmifSclk
      totalMcifwrSclkBandwidth := mcifwrSclk
      requiredDramBandwidthGbytePerSecond := gbyte
      availableDramBandwidth := available.map (·.1)
      availableSclkBandwidth := available.map (·.2)
      pageCloseOpenCheck := if boolOfWord pageOk then .ok else .exceededPageCloseOpen
      maximumBwCheck :=
        if Fx.gt totalDram available.high.1 || Fx.gt totalSclk available.high.2 then .exceededMaximumBw else .ok }
  return ⟨totalDram, totalSclk⟩

/-! ## Stage 8: state-change feasibility grid (R225) -/

/-- What stage 8's functions read at a tier pair (R231). -/
def gridReads (env : CalcEnv) (r : Results) (y s : Tier) : Config.GridReads :=
  { enabled := r.enabledViews fun v => (v.req, v.bw, v.buf), yclk := env.vbios.yclk.get y, sclk := env.vbios.sclk.get s
    urgentLatency := env.vbios.urgentLatency, nbpStateChangeLatency := env.vbios.nbpStateChangeLatency
    selfRefreshExitLatency := env.vbios.selfRefreshExitLatency, blackoutDuration := env.vbios.blackoutDuration }

/-- `LAT_X` (R225). -/
def capabilityLatency (v : Vbios) : Capability → W64
  | .nbp => v.nbpStateChangeLatency
  | .cpup => v.blackoutDuration
  | .cpuc => v.selfRefreshExitLatency

/-- burst_time(y, s) (R225, R229). -/
def burstTime (env : CalcEnv) (y s : Tier) : CalcM W64 := do
  let r ← getResults
  callStage env fun x => env.params.stage.burstTime x y s (gridReads env r y s)

/-- One cell of the grid (R225). -/
def gridCell (env : CalcEnv) (X : Capability) (y s : Tier) : CalcM GridCell := do
  let r ← getResults
  let hidingTime ← callStage env fun x => env.params.stage.hidingTime x X y s (gridReads env r y s)
  let slack ← fxOp (Fx.sub hidingTime (capabilityLatency env.vbios X))
  let burst ← burstTime env y s
  let margin ← fxOp (Fx.sub slack burst)
  let dispclk ← callStage env fun x => env.params.stage.stateChangeDispclk x X y s (gridReads env r y s)
  return { margin := margin, dispclkRequired := dispclk }

/-- The grid of one capability. R225 does not order the tier pairs (y, s): the model takes y in the outer loop and s in the inner one,
low first. The order shows only in extension fields and in which free value a formula draws (DESIGN CHOICE, log entry 16). -/
def capabilityGrid (env : CalcEnv) (X : Capability) : CalcM Grid :=
  forTiers fun y => forTiers fun s => gridCell env X y s

/-- feasible_X(y, s) of one cell (R225). -/
def GridCell.feasible (v : Vbios) (cell : GridCell) : Bool :=
  Fx.ge cell.margin 0 && Fx.le cell.dispclkRequired v.maxDispclk.high

/-- The cell of a capability at a tier pair. -/
def Results.cell (r : Results) (X : Capability) (y s : Tier) : GridCell := ((r.grid.get X).get y).get s

/-- Stage 8: the grid, in the order nbp, cpup, cpuc (log entry 16), and each capability enabled where it is feasible at the highest
tier pair. -/
def stage8 (env : CalcEnv) : CalcM Unit := do
  let nbp ← capabilityGrid env .nbp
  let cpup ← capabilityGrid env .cpup
  let cpuc ← capabilityGrid env .cpuc
  changeResults fun r =>
    { r with
      grid := ⟨nbp, cpup, cpuc⟩
      stateChangeEnable :=
        ⟨nbp.high.high.feasible env.vbios, cpup.high.high.feasible env.vbios, cpuc.high.high.feasible env.vbios⟩ }

/-! ## Stage 9: clock-tier selection (R226) -/

/-- The set E of R226, in the order nbp, cpup, cpuc. -/
def Results.enabledCapabilities (r : Results) : List Capability :=
  [Capability.nbp, .cpup, .cpuc].filter fun X => r.stateChangeEnable.get X

/-- The tiers from one up. -/
def tiersFrom : Tier → List Tier
  | .low => [.low, .mid, .high]
  | .mid => [.mid, .high]
  | .high => [.high]

/-- `ymin`: FORCE_HIGH_MAP sends nbp to yclk (R226). -/
def yMin (r : Results) : Tier := if r.stateChangeEnable.nbp then .low else .high

/-- `smin`: FORCE_HIGH_MAP sends cpup and cpuc to sclk (R226). -/
def sMin (r : Results) : Tier := if r.stateChangeEnable.cpup && r.stateChangeEnable.cpuc then .low else .high

/-- Whether yclk tier y fits (R226). -/
def yFits (v : Vbios) (r : Results) (totalDram : W64) (y : Tier) : Bool :=
  Fx.le totalDram (r.availableDramBandwidth.get y)
    && r.enabledCapabilities.all fun X => (tiersFrom (sMin r)).any fun s => (r.cell X y s).feasible v

/-- Whether sclk tier s fits, the yclk tier chosen (R226). -/
def sFits (v : Vbios) (r : Results) (totalSclk : W64) (y s : Tier) : Bool :=
  Fx.le totalSclk (r.availableSclkBandwidth.get s) && r.enabledCapabilities.all fun X => (r.cell X y s).feasible v

/-- The least fitting yclk tier; none is `no_fit_y`. -/
def selectY (v : Vbios) (r : Results) (totalDram : W64) : Option Tier := (tiersFrom (yMin r)).find? (yFits v r totalDram)

/-- The least fitting sclk tier; none is `no_fit_s`. -/
def selectS (v : Vbios) (r : Results) (totalSclk : W64) (y : Tier) : Option Tier :=
  (tiersFrom (sMin r)).find? (sFits v r totalSclk y)

/-- The sentinel FX(9999) (00_scope.md R11). -/
def sentinelWord : W64 := fx Config.sentinel

/-- What stage 9 decides and stage 11 reads: whether a domain has no fitting tier (R226). -/
structure NoFit where
  y : Bool
  s : Bool
  deriving DecidableEq, Repr

/-- Stage 9's writes, the two selections made. -/
def setTiers (v : Vbios) (y s : Option Tier) (r : Results) : Results :=
  { r with
    yClkLevel := y.getD .high
    sclkLevel := s.getD .high
    requiredYclk := match y with | some t => v.yclk.get t | none => sentinelWord
    requiredSclk := match s with | some t => v.sclk.get t | none => sentinelWord }

/-- Stage 9. -/
def stage9 (env : CalcEnv) (totals : Totals) : CalcM NoFit := do
  let r ← getResults
  let y := selectY env.vbios r totals.dram
  let s := selectS env.vbios r totals.sclk (y.getD .high)
  changeResults (setTiers env.vbios y s)
  return ⟨y.isNone, s.isNone⟩

/-! ## Stage 10: dispclk determination (R227) -/

/-- What stage 10's functions read (R231): the taps are those of the enabled slots, and the timings those of every display below n
(DESIGN CHOICE, log entry 10). -/
def dispclkReads (env : CalcEnv) (r : Results) : Config.DispclkReads :=
  { enabled := r.enabledViews Surface.toSurfaceCore
    timings := env.mode.displays.map fun d => (d.pixelRate, d.hTotal)
    vscalerEfficiency := env.dceip.vscalerEfficiency, vscDepths := env.params.vscDepths }

/-- The dispclk of a tier if the ramped or the unramped value fits it (R227). -/
def dispclkAtTier (maxDispclk unramped ramped : W64) : Option W64 :=
  if Fx.le ramped maxDispclk then some ramped else if Fx.le unramped maxDispclk then some maxDispclk else none

/-- dispclk and its voltage tier (R227): the sentinel and tier 3 above the high maximum, else the first tier that fits. -/
def chooseDispclk (v : Vbios) (unramped ramped : W64) : W64 × Nat :=
  if Fx.gt unramped v.maxDispclk.high then (sentinelWord, 3)
  else
    match dispclkAtTier v.maxDispclk.low unramped ramped with
    | some d => (d, 0)
    | none =>
      match dispclkAtTier v.maxDispclk.mid unramped ramped with
      | some d => (d, 1)
      | none => ((dispclkAtTier v.maxDispclk.high unramped ramped).getD v.maxDispclk.high, 2)

/-- Stage 10. -/
def stage10 (env : CalcEnv) : CalcM Unit := do
  let r ← getResults
  let reads := dispclkReads env r
  let pixel ← callStage env fun x => env.params.stage.dispclkPixelThroughput x reads
  let scaler ← callStage env fun x => env.params.stage.dispclkScalerThroughput x reads
  let request ← callStage env fun x => env.params.stage.dispclkReadRequestThroughput x reads
  let throughput := Fx.max (Fx.max pixel scaler) request
  let w := r.enabledCapabilities.foldl
    (fun w X => Fx.max w (r.cell X r.yClkLevel r.sclkLevel).dispclkRequired) throughput
  let ramped ← fxOp (Fx.mul w env.dceip.dispclkRampingFactor)
  changeResults fun r =>
    { r with
      dispclkReqPixelThroughput := pixel
      dispclkReqScalerThroughput := scaler
      dispclkReqReadRequestThroughput := request
      dispclkRequiredWithoutRamping := w
      dispclkRequiredWithRamping := ramped
      dispclk := (chooseDispclk env.vbios w ramped).1
      dispclkVoltageTier := (chooseDispclk env.vbios w ramped).2 }

/-! ## Stage 11: core-voltage classification (R228) -/

/-- The second row of VOLTAGE_TABLE: some check failed, or a domain has no fitting tier. -/
def notOk (r : Results) (noFit : NoFit) : Bool :=
  r.modeCheck != .ok || r.maximumBwCheck != .ok || r.pageCloseOpenCheck != .ok || r.pteRequestCheck != .ok
    || noFit.y || noFit.s || r.dispclkVoltageTier == 3

/-- VOLTAGE_TABLE (R228). -/
def classifyVoltage (n : Nat) (r : Results) (noFit : NoFit) : Voltage :=
  if n = 0 then .notApplicable
  else if notOk r noFit then .notok
  else if !r.stateChangeEnable.nbp then .highNoNbpStateChange
  else
    match Nat.max (Nat.max r.yClkLevel.rank r.sclkLevel.rank) r.dispclkVoltageTier with
    | 0 => .low
    | 1 => .mid
    | _ => .high

/-- Stage 11's writes: the voltage, and NOTOK_FORCES_SENTINEL (R228). -/
def setVoltage (n : Nat) (noFit : NoFit) (r : Results) : Results :=
  let v := classifyVoltage n r noFit
  if v = .notok ∧ Config.notokForcesSentinel then
    { r with voltage := v, dispclk := sentinelWord, requiredSclk := sentinelWord }
  else { r with voltage := v }

/-- Stage 11. -/
def stage11 (env : CalcEnv) (noFit : NoFit) : CalcM Unit := changeResults (setVoltage env.mode.n noFit)

/-! ## Stage 12: watermarks (R229) -/

/-- What stage 12's per-slot functions read (R231). -/
def watermarkReads (env : CalcEnv) (r : Results) (s : Surface) : Config.WatermarkReads :=
  { vFilterInit := s.bw.vFilterInit, sourceWidth := s.geo.sourceWidth
    pixelRate := (env.mode.display s.cls.displayIndex).pixelRate
    urgentLatency := env.vbios.urgentLatency, yTier := r.yClkLevel, sTier := r.sclkLevel }

/-- The watermarks of one slot (R229). -/
def setWatermarks (env : CalcEnv) (i : Slot) : CalcM Unit := do
  let r ← getResults
  let s ← getSurface i
  let reads := watermarkReads env r s
  let lineTime ← callStage env fun x => env.params.stage.lineSourceTransferTime x i reads
  let urgentLatency ← callStage env fun x => env.params.stage.totalUrgentLatency x
    { urgentLatency := env.vbios.urgentLatency, yTier := r.yClkLevel, sTier := r.sclkLevel }
  let burst ← burstTime env r.yClkLevel r.sclkLevel
  let latencyAndBurst ← fxOp (Fx.add urgentLatency burst)
  let withLine ← fxOp (Fx.add latencyAndBurst lineTime)
  let overhead ← callStage env fun x => env.params.stage.requestTimeOverhead x i reads
  let base ← fxOp (Fx.add withLine overhead)
  let withExit ← fxOp (Fx.add base env.vbios.selfRefreshExitLatency)
  let stutter ← fxOp (Fx.sub withExit env.vbios.blackoutDuration)
  let stutter ← if env.mode.n > 1 then do
      let limit ← callStage env fun x => env.params.stage.cursorBufferLimit x i reads
      pure (Fx.min stutter limit)
    else pure stutter
  let nbp ← fxOp (Fx.add base env.vbios.nbpStateChangeLatency)
  changeSurface i fun s =>
    { s with wm := { lineSourceTransferTime := lineTime, urgent := base, stutterExit := stutter, nbpStateChange := nbp } }

/-- Stage 12. -/
def stage12 (env : CalcEnv) : CalcM Unit := forEnabled (setWatermarks env)

/-! ## Stage 13: metrics (R230) -/

/-- One metric: it reads the RESULTS built so far and VBIOS (R231). -/
def metric (env : CalcEnv) (f : Ext → Config.MetricReads → StageProgram) (set : W64 → Results → Results) : CalcM Unit := do
  let r ← getResults
  let v ← callStage env fun x => f x { results := r, vbios := env.vbios }
  changeResults (set v)

/-- Stage 13. -/
def stage13 (env : CalcEnv) : CalcM Unit := do
  metric env env.params.stage.dramAccessEfficiency fun v r => { r with dramAccessEfficiency := v }
  metric env env.params.stage.writeAccessEfficiency fun v r => { r with writeAccessEfficiency := v }
  metric env env.params.stage.averageBandwidthNoCompression fun v r => { r with averageBandwidthNoCompression := v }
  metric env env.params.stage.averageBandwidth fun v r => { r with averageBandwidth := v }
  metric env env.params.stage.stutterEfficiency fun v r => { r with stutterEfficiency := v }
  metric env env.params.stage.immediateFlipLatency fun v r => { r with immediateFlipLatency := v }
  metric env env.params.stage.worstCaseLatencyNonDisplay fun v r => { r with worstCaseLatencyNonDisplay := v }

/-! ## CALC_CORE (R203, R234) -/

/-- CALC_CORE: RESULTS is cleared, then the 13 stages run in order; none is skipped (R203, R234). -/
def calcCore (env : CalcEnv) : CalcM Unit := do
  changeResults fun _ => Results.zero
  stage1 env
  stage2 env
  stage3 env
  stage4 env
  stage5 env
  stage6 env
  let totals ← stage7 env
  stage8 env
  let noFit ← stage9 env totals
  stage10 env
  stage11 env noFit
  stage12 env
  stage13 env

/-- The start of a command's calculation: no condition raised yet. -/
def CalcState.start (draws : Nat) : CalcState := ⟨Results.zero, false, false, draws⟩

end Sys2Proof.Machine
end

