-- ==== Sys2Proof/Machine/Evaluate.lean ====
section
/-!
DEFINITION. The four-pass evaluation of BWCALCS (46_bwe_bwcalcs.md R260 to R272), over typed records.
-/

namespace Sys2Proof.Machine

/-- The four passes, in order: marks a, b, c and d (R265). -/
inductive Pass
  | a | b | c | d
  deriving DecidableEq, Repr

/-- `OPERATING_POINT(V0, m)` (R263): a copy of the caller's VBIOS with the lower clocks replaced. -/
def operatingPoint (v : Vbios) : Pass → Vbios
  | .a => v
  | .b => { v with sclk := { v.sclk with low := v.sclk.mid } }
  | .c =>
    { v with
      sclk := { v.sclk with low := if Config.passCKeepsCallerLowSclk then v.sclk.low else v.sclk.mid }
      yclk := { v.yclk with low := v.yclk.mid } }
  | .d =>
    { v with
      sclk := ⟨v.sclk.high, v.sclk.high, v.sclk.high⟩
      yclk := ⟨v.yclk.high, if Config.passDMidYclk then v.yclk.high else v.yclk.mid, v.yclk.high⟩ }

/-- `CONV_KHZ(x)` (R268). -/
def convKhz (x : W64) : CalcM W64 := do
  let scaled ← fxOp (Fx.mul x (fx Config.clkUnitScale))
  fxOp (Fx.toInt scaled)

/-- A watermark in ns (R264). -/
def markNs (w : W64) : CalcM W64 := do
  let scaled ← fxOp (Fx.mul w (fx Config.timeUnitNs))
  fxOp (Fx.toInt scaled)

/-- The graphics slots 4 to 9, of display pipes 0 to 5 (R264). -/
def graphicsSlots : List Slot := [4, 5, 6, 7, 8, 9]

/-- The marks of the pass just run: for each pipe q the kinds urgent, stutter exit, nbp; entry 3q + k (R264). -/
def passMarks : CalcM (List W64) := do
  let r ← getResults
  let words := graphicsSlots.flatMap fun i =>
    [r.surfaces[i].wm.urgent, r.surfaces[i].wm.stutterExit, r.surfaces[i].wm.nbpStateChange]
  words.mapM markNs

/-- One pass: CALC_CORE at its operating point, then its marks (R260). -/
def runPass (env : CalcEnv) (p : Pass) : CalcM (List W64) := do
  calcCore { env with vbios := operatingPoint env.vbios p }
  passMarks

/-- The 72 marks in OUTPUT order: slot 8 + 12q + 4k + m holds entry 3q + k of pass m (R264, R265). -/
def interleaveMarks (a b c d : List W64) : List W64 :=
  (List.range 18).flatMap fun t => [a.getD t 0, b.getD t 0, c.getD t 0, d.getD t 0]

/-- The verdict (R272): signed comparison of the pass-a clocks with the caller's limits. -/
def verdict (dispclkKhz requiredSclk dispclkLimit sclkLimit : W64) : Bool :=
  Fx.le dispclkKhz dispclkLimit && Fx.le requiredSclk sclkLimit

/-- BWCALCS for n ≥ 1 (R260): `env.vbios` is the caller's VBIOS, V0. Afterwards RESULTS is what pass d left (R269). Both limits
are converted whatever the first comparison gives: the `and` of R272 does not cut the second conversion short, so that its OV is
recorded either way (DESIGN CHOICE, log entry 16). -/
def evaluate (env : CalcEnv) : CalcM Output := do
  let a ← runPass env .a
  let r ← getResults
  let dispclk ← convKhz r.dispclk
  let sclk ← convKhz r.requiredSclk
  let yclk ← convKhz r.requiredYclk
  let b ← runPass env .b
  let c ← runPass env .c
  let d ← runPass env .d
  let dispclkLimit ← convKhz env.vbios.maxDispclk.high
  let sclkLimit ← convKhz env.vbios.sclk.high
  return {
    supported := verdict dispclk sclk dispclkLimit sclkLimit
    dispclkKhz := dispclk
    requiredSclk := sclk
    requiredYclk := yclk
    stateChangeEnable := r.stateChangeEnable
    marks := interleaveMarks a b c d }

/-- OUTPUT of a zero-display BWCALCS (R261). -/
def zeroDisplayOutput : Output where
  supported := true
  dispclkKhz := 0
  requiredSclk := 0
  requiredYclk := 0
  stateChangeEnable := ⟨true, true, true⟩
  marks := List.replicate 72 0

end Sys2Proof.Machine
end

