-- ==== Sys2Proof/Machine/Conformance.lean ====
section
/-!
DEFINITION. What the spec asks of the OPEN parameters taken together (44_bwe_init.md R192; 45_bwe_calculate.md R231, R233): a
choice of them that fails one of these conditions is no implementation. The conditions on pipe counts, the Stoney variant, the
clocks and the throttled buffer size hold by construction (Machine/CapTable.lean, `throttleBuffer`); what a formula reads and
writes is in the types of `STAGE_FNS` and in `callStage`. Log entries 12 and 13.
-/

namespace Sys2Proof.Machine

open Config (StageProgram BweParams)

/-- The OPEN parameters of the BWE: those of its calculation, and the raw contents of the capability tables. -/
structure Parameters where
  bwe : BweParams
  /-- Family code, Stoney bit, DCEIP slot. -/
  capDceip : Nat → Bool → Nat → W64
  /-- Family code, VBIOS slot. -/
  capVbios : Nat → Nat → W64

/-! ## Monotonicity of the formulas (R231, constraint 4) -/

/-- A formula run by itself. -/
def runProgram (p : StageProgram) (draws : Nat) : W64 × CalcState :=
  let done := runOps p.ops [] (CalcState.start draws)
  (stepResult done.1 p.value, done.2)

/-- No condition has been raised: the results do not rest on a `draw()` or on a wrapped sum (R235). -/
def CalcState.clean (c : CalcState) : Prop := c.dz = false ∧ c.ov = false

/-- The first formula's value is not above the second's, where neither raises DZ or OV. -/
def NotAbove (p q : StageProgram) : Prop :=
  ∀ draws, (runProgram p draws).2.clean → (runProgram q draws).2.clean →
    Fx.le (runProgram p draws).1 (runProgram q draws).1 = true

/-- The slots that a single-display mode can enable (R201). -/
def singleDisplaySlots : List Slot := [0, 1, 4, 10, 11]

/-- Each slot's display bandwidth replaced. -/
def withDisplayBandwidths (b : Slot → W64) (reads : Config.TotalReads) : Config.TotalReads :=
  { reads with
    enabled := reads.enabled.map fun s => (s.1, { s.2 with bw := { s.2.bw with displayBandwidth := b s.1 } }) }

/-- Constraint 4 of R231: in a single-display mode request_bandwidth(i) never falls as the rounded source width grows;
cursor_and_pte_dram_overhead() never falls as display bandwidths grow, nor to_gbyte_per_second(x) as x grows. -/
structure Monotone (f : Config.StageFns) : Prop where
  requestBandwidth : ∀ x, ∀ i ∈ singleDisplaySlots, ∀ (reads : Config.BandwidthReads) (w : W64),
    Fx.le reads.widthRoundedUpToChunks w = true →
    NotAbove (f.requestBandwidth x i reads) (f.requestBandwidth x i { reads with widthRoundedUpToChunks := w })
  overhead : ∀ x (reads : Config.TotalReads) (b : Slot → W64),
    (∀ s ∈ reads.enabled, Fx.le s.2.bw.displayBandwidth (b s.1) = true) →
    NotAbove (f.cursorAndPteDramOverhead x reads) (f.cursorAndPteDramOverhead x (withDisplayBandwidths b reads))
  toGbyte : ∀ x reads v w, Fx.le v w = true → NotAbove (f.toGbytePerSecond x reads v) (f.toGbytePerSecond x reads w)

/-! ## Monotonicity of the calculation (R233) -/

/-- MODE with display 0's graphics_src_width (slot 18, 10_state.md R33) replaced. -/
def withSrcWidth (raw : Nat → W64) (w : W64) (k : Nat) : W64 := if k = displaySlot 0 2 then w else raw k

/-- R233: in a legal MODE of one display without an underlay, a larger graphics_src_width never lowers
required_dram_bandwidth_gbyte_per_second, where neither calculation raises DZ or OV. -/
def WidthNeverLowersDemand (params : BweParams) : Prop :=
  ∀ (dceip : Dceip) (vbios : Vbios) (raw : Nat → W64) (w : W64) (draws draws' : Nat),
    modeLegal raw = true → raw 0 = 1 → raw 4 = 0 → Fx.le (raw (displaySlot 0 2)) w = true →
    let run := fun (mode : Nat → W64) (d : Nat) => (calcCore ⟨params, dceip, vbios, modeOfSlots mode⟩ (CalcState.start d)).2
    (run raw draws).clean → (run (withSrcWidth raw w) draws').clean →
    Fx.le (run raw draws).results.requiredDramBandwidthGbytePerSecond
      (run (withSrcWidth raw w) draws').results.requiredDramBandwidthGbytePerSecond = true

/-! ## Scenario A (R192; 95_test_vectors.md E7 and P5) -/

/-- MODE of scenario A, slot by slot (95_test_vectors.md P5, steps 2 to 15). -/
def scenarioAMode : Nat → W64
  | 0 => 1
  | 16 => fx 2200
  | 17 => 0x94800000
  | 18 => fx 1920
  | 19 => fx 1080
  | 20 => fx 1
  | 21 => fx 1
  | 22 => 4
  | 23 => 4
  | 24 => 4
  | 28 => 1
  | _ => 0

/-- What a CALC reads in scenario A: the tables that INIT loads for CARRIZO, and MODE of P5. -/
def scenarioA (p : Parameters) : CalcEnv where
  params := p.bwe
  dceip := dceipOfSlots fun k => some (tableDceipSlot p.capDceip 1 false k)
  vbios := vbiosOfSlots fun k => some (tableVbiosSlot p.capVbios 1 k)
  mode := modeOfSlots scenarioAMode

/-- Scenario A holds (R192): after CALC the mode check is ok and the yclk level low, and BWCALCS answers that the
configuration is supported, whatever `draw()` gives. -/
def ScenarioAHolds (p : Parameters) : Prop :=
  ∀ draws,
    (calcCore (scenarioA p) (CalcState.start draws)).2.results.modeCheck = .ok
      ∧ (calcCore (scenarioA p) (CalcState.start draws)).2.results.yClkLevel = .low
      ∧ (evaluate (scenarioA p) (CalcState.start draws)).1.supported = true

/-! ## Conformance -/

/-- The parameters meet every condition of the spec that does not hold by construction. -/
structure Conforms (p : Parameters) : Prop where
  monotone : Monotone p.bwe.stage
  width : WidthNeverLowersDemand p.bwe
  scenarioA : ScenarioAHolds p

end Sys2Proof.Machine
end

