-- ==== Sys2Proof/Laws/Calc.lean ====
section
/-!
SUPPORT. How a calculation is reasoned about: what each operation of CalcM does to RESULTS, which parts of RESULTS a
calculation leaves (`Keeps`), what a loop over the enabled slots does to one slot, and that RESULTS does not depend on the
conditions raised so far, nor, where no DZ is raised, on the counter of free values (`SameResults`).
-/

namespace Sys2Proof.Machine

/-! ## Running

`(rfl)` keeps these from being used as definitional steps, which the kernel would have to check again. -/

@[simp] theorem CalcM.bind_apply {α β : Type} (m : CalcM α) (f : α → CalcM β) (c : CalcState) :
    (m >>= f) c = f (m c).1 (m c).2 := (rfl)

@[simp] theorem CalcM.pure_apply {α : Type} (a : α) (c : CalcState) : (pure a : CalcM α) c = (a, c) := (rfl)

@[simp] theorem getResults_apply (c : CalcState) : getResults c = (c.results, c) := (rfl)

@[simp] theorem getSurface_apply (i : Slot) (c : CalcState) : getSurface i c = (c.results.surfaces[i], c) := (rfl)

@[simp] theorem changeResults_apply (f : Results → Results) (c : CalcState) :
    changeResults f c = ((), { c with results := f c.results }) := (rfl)

theorem changeSurface_apply (i : Slot) (f : Surface → Surface) (c : CalcState) :
    changeSurface i f c
      = ((), { c with results := { c.results with surfaces := c.results.surfaces.set i (f c.results.surfaces[i]) } }) :=
  (rfl)

@[simp] theorem fxOp_results (x : FxResult) (c : CalcState) : (fxOp x c).2.results = c.results := by cases x <;> rfl

/-- The value of an FXU operation that does not divide by zero. -/
theorem fxOp_value (n : Nat) (x : FxResult) (c : CalcState) (h : x ≠ .divByZero) :
    (fxOp x c).1 = match x with | .exact v => v | .overflow v => v | .divByZero => Config.draw n := by
  cases x <;> first | rfl | exact absurd rfl h

/-- Extension writes change the extension fields alone. -/
theorem Results.writeExt_eq (r : Results) (w : List (Nat × W64)) : ∃ e, r.writeExt w = { r with ext := e } := by
  unfold Results.writeExt
  induction w generalizing r with
  | nil => exact ⟨r.ext, rfl⟩
  | cons x w ih =>
    rw [List.foldl_cons]
    split
    · obtain ⟨e, he⟩ := ih { r with ext := setExtSlot r.ext x.1 x.2 }
      exact ⟨e, by rw [he]⟩
    · exact ih r

/-- The operations of a formula leave RESULTS. -/
theorem runOps_results (ops : List Config.StageOp) (done : List W64) (c : CalcState) :
    (runOps ops done c).2.results = c.results := by
  induction ops generalizing done c with
  | nil => rfl
  | cons op ops ih => exact (ih _ _).trans (fxOp_results _ _)

/-- A stage call changes the extension fields alone. -/
theorem callStage_results (env : CalcEnv) (f : Config.Ext → Config.StageProgram) (c : CalcState) :
    ∃ e, (callStage env f c).2.results = { c.results with ext := e } := by
  obtain ⟨e, he⟩ := Results.writeExt_eq c.results
    ((f ⟨env.dceip.ext, env.vbios.ext, c.results.ext⟩).ext.map fun w =>
      (w.1, stepResult (runOps (f ⟨env.dceip.ext, env.vbios.ext, c.results.ext⟩).ops [] c).1 w.2))
  refine ⟨e, he ▸ ?_⟩
  show (runOps _ [] c).2.results.writeExt _ = _
  rw [runOps_results]

/-! ## What a calculation leaves -/

/-- The calculation leaves what `g` shows of RESULTS. -/
def Keeps {α β : Type} (g : Results → β) (m : CalcM α) : Prop := ∀ c, g (m c).2.results = g c.results

/-- A view that does not show the extension fields. -/
def IgnoresExt {β : Type} (g : Results → β) : Prop := ∀ r e, g { r with ext := e } = g r

namespace Keeps

variable {α β γ : Type} {g : Results → β}

theorem bind {m : CalcM α} {f : α → CalcM γ} (hm : Keeps g m) (hf : ∀ a, Keeps g (f a)) : Keeps g (m >>= f) :=
  fun c => (hf _ _).trans (hm c)

theorem pure (a : α) : Keeps g (Pure.pure a : CalcM α) := fun _ => rfl

theorem getResults : Keeps g Machine.getResults := fun _ => rfl

theorem getSurface (i : Slot) : Keeps g (Machine.getSurface i) := fun _ => rfl

theorem fxOp (x : FxResult) : Keeps g (Machine.fxOp x) := fun c => by rw [fxOp_results]

theorem ite {p : Prop} [Decidable p] {m m' : CalcM α} (h : Keeps g m) (h' : Keeps g m') :
    Keeps g (if p then m else m') := by split <;> assumption

theorem changeResults {f : Results → Results} (h : ∀ r, g (f r) = g r) : Keeps g (Machine.changeResults f) := fun _ => h _

theorem changeSurface {i : Slot} {f : Surface → Surface}
    (h : ∀ r : Results, g { r with surfaces := r.surfaces.set i (f r.surfaces[i]) } = g r) :
    Keeps g (Machine.changeSurface i f) := fun _ => h _

theorem callStage (env : CalcEnv) (f : Config.Ext → Config.StageProgram) (h : IgnoresExt g) :
    Keeps g (Machine.callStage env f) := fun c => by
  obtain ⟨e, he⟩ := callStage_results env f c
  rw [he, h]

theorem forM {δ : Type} (l : List δ) {f : δ → CalcM Unit} (h : ∀ i, Keeps g (f i)) : Keeps g (l.forM f) := by
  induction l with
  | nil => exact Keeps.pure ()
  | cons i l ih => exact Keeps.bind (h i) fun _ => ih

theorem forEnabled {f : Slot → CalcM Unit} (h : ∀ i, Keeps g (f i)) : Keeps g (Machine.forEnabled f) :=
  Keeps.forM _ fun i => Keeps.bind (Keeps.getSurface i) fun _ => Keeps.ite (h i) (Keeps.pure ())

theorem foldlM {δ : Type} (l : List δ) {f : α → δ → CalcM α} (h : ∀ a d, Keeps g (f a d)) (a : α) :
    Keeps g (l.foldlM f a) := by
  induction l generalizing a with
  | nil => exact Keeps.pure a
  | cons d l ih => exact Keeps.bind (h a d) fun b => ih b

theorem sumWords (ws : List W64) : Keeps g (Machine.sumWords ws) := Keeps.foldlM _ (fun _ _ => Keeps.fxOp _) _

theorem mapM {δ : Type} (l : List δ) {f : δ → CalcM α} (h : ∀ d, Keeps g (f d)) : Keeps g (l.mapM f) := by
  induction l with
  | nil => exact Keeps.pure []
  | cons d l ih =>
    rw [List.mapM_cons]
    exact Keeps.bind (h d) fun _ => Keeps.bind ih fun _ => Keeps.pure _

theorem forTiers {f : Tier → CalcM α} (h : ∀ t, Keeps g (f t)) : Keeps g (Machine.forTiers f) :=
  Keeps.bind (h _) fun _ => Keeps.bind (h _) fun _ => Keeps.bind (h _) fun _ => Keeps.pure _

end Keeps

/-! ## One slot through a loop -/

/-- One slot of RESULTS, as a view. -/
def slotView (j : Slot) (r : Results) : Surface := r.surfaces[j]

theorem slotView_ignoresExt (j : Slot) : IgnoresExt (slotView j) := fun _ _ => rfl

theorem slotView_set_self (j : Slot) (r : Results) (s : Surface) :
    slotView j { r with surfaces := r.surfaces.set j s } = s := by simp [slotView]

theorem slotView_set_other (j i : Slot) (r : Results) (s : Surface) (h : j ≠ i) :
    slotView j { r with surfaces := r.surfaces.set i s } = slotView j r := by
  have : (i : Nat) ≠ j := fun e => h (Fin.ext e.symm)
  simp [slotView, this]

/-- A slot after a change to it. -/
theorem slotView_changeSurface_self (i : Slot) (f : Surface → Surface) (c : CalcState) :
    slotView i (changeSurface i f c).2.results = f (slotView i c.results) := slotView_set_self ..

/-- A slot after a change to another one. -/
theorem slotView_changeSurface_other (i j : Slot) (f : Surface → Surface) (c : CalcState) (h : j ≠ i) :
    slotView j (changeSurface i f c).2.results = slotView j c.results := slotView_set_other _ _ _ _ h

/-- The body of a loop over the enabled slots, at one slot. -/
def enabledBody (f : Slot → CalcM Unit) (i : Slot) : CalcM Unit := do
  let s ← getSurface i
  if s.cls.enable then f i

theorem enabledBody_apply (f : Slot → CalcM Unit) (i : Slot) (c : CalcState) :
    enabledBody f i c = if (slotView i c.results).cls.enable then f i c else ((), c) := by
  show (if (slotView i c.results).cls.enable then f i else Pure.pure ()) c = _
  by_cases h : (slotView i c.results).cls.enable = true
  · rw [if_pos h, if_pos h]
  · rw [if_neg h, if_neg h]; rfl

theorem forEnabled_eq (f : Slot → CalcM Unit) : forEnabled f = allSlots.forM (enabledBody f) := rfl

theorem forM_cons_apply {δ : Type} (i : δ) (l : List δ) (f : δ → CalcM Unit) (c : CalcState) :
    (i :: l).forM f c = l.forM f (f i c).2 := rfl

/-- What a loop whose body changes only its own slot does to one slot: nothing if it is disabled, and else the body, from a
state that shows the slot, and every view the bodies keep, as they were before the loop. -/
theorem forM_slot {β : Type} (g : Results → β) (f : Slot → CalcM Unit)
    (own : ∀ i j : Slot, j ≠ i → Keeps (slotView j) (f i))
    (keeps : ∀ i, Keeps g (f i)) (l : List Slot) (nodup : l.Nodup) (i : Slot) (c : CalcState) :
    (i ∉ l → slotView i (l.forM (enabledBody f) c).2.results = slotView i c.results)
      ∧ (i ∈ l → ∃ c' : CalcState, slotView i c'.results = slotView i c.results ∧ g c'.results = g c.results
        ∧ slotView i (l.forM (enabledBody f) c).2.results
          = if (slotView i c.results).cls.enable then slotView i (f i c').2.results else slotView i c.results) := by
  induction l generalizing c with
  | nil => exact ⟨fun _ => rfl, fun h => absurd h (by simp)⟩
  | cons k l ih =>
    have hk : k ∉ l := (List.nodup_cons.1 nodup).1
    have hl := (List.nodup_cons.1 nodup).2
    have other : ∀ j : Slot, j ≠ k → slotView j (enabledBody f k c).2.results = slotView j c.results := by
      intro j hj
      rw [enabledBody_apply]; split
      · exact own k j hj c
      · rfl
    have keep : g (enabledBody f k c).2.results = g c.results := by
      rw [enabledBody_apply]; split
      · exact keeps k c
      · rfl
    rw [forM_cons_apply]
    obtain ⟨ih1, ih2⟩ := ih hl (enabledBody f k c).2
    refine ⟨fun hi => ?_, fun hi => ?_⟩
    · rw [List.mem_cons, not_or] at hi
      rw [ih1 hi.2, other i hi.1]
    · by_cases hik : i = k
      · subst hik
        refine ⟨c, rfl, rfl, ?_⟩
        rw [ih1 hk, enabledBody_apply]
        split <;> rfl
      · have him : i ∈ l := by simpa [hik] using hi
        obtain ⟨c', h1, h2, h3⟩ := ih2 him
        refine ⟨c', h1.trans (other i hik), h2.trans keep, ?_⟩
        rw [h3, other i hik]

theorem allSlots_nodup : allSlots.Nodup := by decide

theorem mem_allSlots (i : Slot) : i ∈ allSlots := by revert i; decide

/-- `forM_slot` for the loop over all slots. -/
theorem forEnabled_slot {β : Type} (g : Results → β) (f : Slot → CalcM Unit)
    (own : ∀ i j : Slot, j ≠ i → Keeps (slotView j) (f i))
    (keeps : ∀ i, Keeps g (f i)) (i : Slot) (c : CalcState) :
    ∃ c' : CalcState, slotView i c'.results = slotView i c.results ∧ g c'.results = g c.results
      ∧ slotView i (forEnabled f c).2.results
        = if (slotView i c.results).cls.enable then slotView i (f i c').2.results else slotView i c.results := by
  obtain ⟨c', h1, h2, h3⟩ := (forM_slot g f own keeps allSlots allSlots_nodup i c).2 (mem_allSlots i)
  refine ⟨c', h1, h2, ?_⟩
  rw [forEnabled_eq]
  generalize List.forM allSlots (enabledBody f) = m at h3 ⊢
  exact h3

/-- A part of every surface, as a view. -/
def surfacesView {β : Type} (p : Surface → β) (r : Results) : Slot → β := fun i => p r.surfaces[i]

theorem surfacesView_ignoresExt {β : Type} (p : Surface → β) : IgnoresExt (surfacesView p) := fun _ _ => rfl

theorem surfacesView_set {β : Type} (p : Surface → β) (r : Results) (i : Slot) (s : Surface) (h : p s = p r.surfaces[i]) :
    surfacesView p { r with surfaces := r.surfaces.set i s } = surfacesView p r := by
  funext j
  by_cases hj : (i : Nat) = j
  · have : i = j := Fin.ext hj
    subst this
    simp [surfacesView, h]
  · simp [surfacesView, hj]

/-! ## Independence of the conditions raised so far -/

/-- From states with the same RESULTS, the calculation gives the same value and RESULTS and raises the same conditions, whatever
conditions have been raised, if the counters agree or it raises no DZ (then it reads no free value); and DZ, once raised,
stays. -/
structure SameResults {α : Type} (m : CalcM α) : Prop where
  dz : ∀ c, c.dz = true → (m c).2.dz = true
  same : ∀ c c' : CalcState, c'.results = c.results → c'.draws = c.draws ∨ (m c).2.dz = false →
    (m c').1 = (m c).1 ∧ (m c').2.results = (m c).2.results ∧ (c'.draws = c.draws → (m c').2.draws = (m c).2.draws)
      ∧ (c'.dz = c.dz → (m c').2.dz = (m c).2.dz) ∧ (c'.ov = c.ov → (m c').2.ov = (m c).2.ov)

namespace SameResults

variable {α β : Type}

theorem bind {m : CalcM α} {f : α → CalcM β} (hm : SameResults m) (hf : ∀ a, SameResults (f a)) :
    SameResults (m >>= f) where
  dz c h := (hf _).dz _ (hm.dz c h)
  same c c' hr hd := by
    have first : c'.draws = c.draws ∨ (m c).2.dz = false := hd.imp_right fun h => by
      by_contra hne
      exact absurd ((hf _).dz _ (by simpa using hne)) (by simpa using h)
    obtain ⟨h1, h2, h3, h4, h5⟩ := hm.same c c' hr first
    simp only [CalcM.bind_apply, h1] at hd ⊢
    obtain ⟨g1, g2, g3, g4, g5⟩ := (hf (m c).1).same _ _ h2 (hd.imp_left h3)
    exact ⟨g1, g2, fun h => g3 (h3 h), fun h => g4 (h4 h), fun h => g5 (h5 h)⟩

theorem pure (a : α) : SameResults (Pure.pure a : CalcM α) := ⟨fun _ h => h, fun _ _ hr _ => ⟨rfl, hr, id, id, id⟩⟩

theorem getResults : SameResults Machine.getResults := ⟨fun _ h => h, fun _ _ hr _ => ⟨hr, hr, id, id, id⟩⟩

theorem getSurface (i : Slot) : SameResults (Machine.getSurface i) :=
  ⟨fun _ h => h, fun c c' hr _ => ⟨by simp [hr], hr, id, id, id⟩⟩

theorem fxOp (x : FxResult) : SameResults (Machine.fxOp x) := by
  cases x with
  | exact v => exact ⟨fun _ h => h, fun _ _ hr _ => ⟨rfl, hr, id, id, id⟩⟩
  | overflow v => exact ⟨fun _ h => h, fun _ _ hr _ => ⟨rfl, hr, id, id, fun _ => rfl⟩⟩
  | divByZero =>
    exact ⟨fun _ _ => rfl, fun c c' hr hd =>
      hd.elim (fun h => ⟨congrArg Config.draw h, hr, congrArg (· + 1), fun _ => rfl, id⟩) fun h => absurd h (by simp [Machine.fxOp])⟩

theorem ite {p : Prop} [Decidable p] {m m' : CalcM α} (h : SameResults m) (h' : SameResults m') :
    SameResults (if p then m else m') := by split <;> assumption

theorem changeResults (f : Results → Results) : SameResults (Machine.changeResults f) :=
  ⟨fun _ h => h, fun _ _ hr _ => ⟨rfl, congrArg f hr, id, id, id⟩⟩

theorem changeSurface (i : Slot) (f : Surface → Surface) : SameResults (Machine.changeSurface i f) :=
  SameResults.changeResults _

theorem runOps (ops : List Config.StageOp) (done : List W64) : SameResults (Machine.runOps ops done) := by
  induction ops generalizing done with
  | nil => exact SameResults.pure _
  | cons op ops ih => exact SameResults.bind (SameResults.fxOp _) fun w => ih _

theorem callStage (env : CalcEnv) (f : Config.Ext → Config.StageProgram) : SameResults (Machine.callStage env f) :=
  SameResults.bind SameResults.getResults fun _ => SameResults.bind (SameResults.runOps _ _) fun _ =>
    SameResults.bind (SameResults.changeResults _) fun _ => SameResults.pure _

theorem forM {δ : Type} (l : List δ) {f : δ → CalcM Unit} (h : ∀ i, SameResults (f i)) : SameResults (l.forM f) := by
  induction l with
  | nil => exact SameResults.pure ()
  | cons i l ih => exact SameResults.bind (h i) fun _ => ih

theorem forEnabled {f : Slot → CalcM Unit} (h : ∀ i, SameResults (f i)) : SameResults (Machine.forEnabled f) :=
  SameResults.forM _ fun i => SameResults.bind (SameResults.getSurface i) fun _ => SameResults.ite (h i) (SameResults.pure ())

theorem foldlM {δ : Type} (l : List δ) {f : α → δ → CalcM α} (h : ∀ a d, SameResults (f a d)) (a : α) :
    SameResults (l.foldlM f a) := by
  induction l generalizing a with
  | nil => exact SameResults.pure a
  | cons d l ih => exact SameResults.bind (h a d) fun b => ih b

theorem sumWords (ws : List W64) : SameResults (Machine.sumWords ws) := SameResults.foldlM _ (fun _ _ => SameResults.fxOp _) _

theorem mapM {δ : Type} (l : List δ) {f : δ → CalcM α} (h : ∀ d, SameResults (f d)) : SameResults (l.mapM f) := by
  induction l with
  | nil => exact SameResults.pure []
  | cons d l ih =>
    rw [List.mapM_cons]
    exact SameResults.bind (h d) fun _ => SameResults.bind ih fun _ => SameResults.pure _

theorem forTiers {f : Tier → CalcM α} (h : ∀ t, SameResults (f t)) : SameResults (Machine.forTiers f) :=
  SameResults.bind (h _) fun _ => SameResults.bind (h _) fun _ => SameResults.bind (h _) fun _ => SameResults.pure _

end SameResults

end Sys2Proof.Machine
end

