-- ==== Sys2Proof/Laws/Stages.lean ====
section
/-!
SUPPORT. What each of the 13 stages can change of RESULTS: a view that ignores the fields a stage writes, and the extension
fields, is kept by the stage. And RESULTS of a CALC_CORE does not depend on the conditions raised before it.
-/

namespace Sys2Proof.Machine

/-! ## RESULTS of CALC_CORE is a function of its inputs -/

theorem doubleStereo_sameResults (s : SurfGeometry) : SameResults (doubleStereo s) := by
  unfold doubleStereo
  split
  · exact SameResults.bind (SameResults.fxOp _) fun _ => SameResults.pure _
  · exact SameResults.bind (SameResults.fxOp _) fun _ => SameResults.pure _
  · exact SameResults.pure _

theorem halveChroma_sameResults (t : SurfaceType) (q : SurfGeometry) : SameResults (halveChroma t q) := by
  unfold halveChroma
  repeat' with_reducible first
    | exact SameResults.pure _
    | exact SameResults.getSurface _
    | exact SameResults.getResults
    | exact SameResults.fxOp _
    | exact SameResults.changeResults _
    | exact SameResults.changeSurface _ _
    | exact SameResults.callStage _ _
    | exact SameResults.sumWords _
    | apply SameResults.forEnabled
    | apply SameResults.forTiers
    | apply SameResults.bind
    | apply SameResults.ite
    | intro _

theorem doubleInterlaced_sameResults (q : SurfGeometry) : SameResults (doubleInterlaced q) := by
  unfold doubleInterlaced
  repeat' with_reducible first
    | exact SameResults.pure _
    | exact SameResults.getSurface _
    | exact SameResults.getResults
    | exact SameResults.fxOp _
    | exact SameResults.changeResults _
    | exact SameResults.changeSurface _ _
    | exact SameResults.callStage _ _
    | exact SameResults.sumWords _
    | apply SameResults.forEnabled
    | apply SameResults.forTiers
    | apply SameResults.bind
    | apply SameResults.ite
    | intro _

theorem roundToChunks_sameResults (p : Panning) (q : SurfGeometry) : SameResults (roundToChunks p q) := by
  unfold roundToChunks
  repeat' with_reducible first
    | exact SameResults.pure _
    | exact SameResults.getSurface _
    | exact SameResults.getResults
    | exact SameResults.fxOp _
    | exact SameResults.changeResults _
    | exact SameResults.changeSurface _ _
    | exact SameResults.callStage _ _
    | exact SameResults.sumWords _
    | apply SameResults.forEnabled
    | apply SameResults.forTiers
    | apply SameResults.bind
    | apply SameResults.ite
    | intro _

theorem slotGeometry_sameResults (env : CalcEnv) (k : SurfClass) : SameResults (slotGeometry env k) := by
  unfold slotGeometry
  repeat' with_reducible first
    | exact SameResults.pure _
    | exact halveChroma_sameResults _ _
    | exact doubleStereo_sameResults _
    | exact doubleInterlaced_sameResults _
    | exact roundToChunks_sameResults _ _
    | exact SameResults.getSurface _
    | exact SameResults.getResults
    | exact SameResults.fxOp _
    | exact SameResults.changeResults _
    | exact SameResults.changeSurface _ _
    | exact SameResults.callStage _ _
    | exact SameResults.sumWords _
    | apply SameResults.forEnabled
    | apply SameResults.forTiers
    | apply SameResults.bind
    | apply SameResults.ite
    | intro _

theorem stage1_sameResults (env : CalcEnv) : SameResults (stage1 env) := by
  unfold stage1
  repeat' with_reducible first
    | exact SameResults.pure _
    | exact SameResults.getSurface _
    | exact SameResults.getResults
    | exact SameResults.fxOp _
    | exact SameResults.changeResults _

theorem stage2_sameResults (env : CalcEnv) : SameResults (stage2 env) := by
  unfold stage2
  repeat' with_reducible first
    | exact SameResults.pure _
    | exact slotGeometry_sameResults _ _
    | exact SameResults.getSurface _
    | exact SameResults.getResults
    | exact SameResults.fxOp _
    | exact SameResults.changeResults _
    | exact SameResults.changeSurface _ _
    | exact SameResults.callStage _ _
    | exact SameResults.sumWords _
    | apply SameResults.forEnabled
    | apply SameResults.forTiers
    | apply SameResults.bind
    | apply SameResults.ite
    | intro _

theorem stage3_sameResults (env : CalcEnv) : SameResults (stage3 env) := by
  unfold stage3 checkRatios checkLineBuffer checkFbc checkRotation
  repeat' with_reducible first
    | exact SameResults.pure _
    | exact SameResults.getSurface _
    | exact SameResults.getResults
    | exact SameResults.fxOp _
    | exact SameResults.changeResults _
    | exact SameResults.changeSurface _ _
    | exact SameResults.callStage _ _
    | exact SameResults.sumWords _
    | apply SameResults.forEnabled
    | apply SameResults.forTiers
    | apply SameResults.bind
    | apply SameResults.ite
    | intro _

theorem stage4_sameResults (env : CalcEnv) : SameResults (stage4 env) := by
  unfold stage4 halveUsefulBytes
  repeat' with_reducible first
    | exact SameResults.pure _
    | exact SameResults.getSurface _
    | exact SameResults.getResults
    | exact SameResults.fxOp _
    | exact SameResults.changeResults _
    | exact SameResults.changeSurface _ _
    | exact SameResults.callStage _ _
    | exact SameResults.sumWords _
    | apply SameResults.forEnabled
    | apply SameResults.forTiers
    | apply SameResults.bind
    | apply SameResults.ite
    | intro _

theorem stage5_sameResults (env : CalcEnv) : SameResults (stage5 env) := by
  unfold stage5
  repeat' with_reducible first
    | exact SameResults.pure _
    | exact SameResults.getSurface _
    | exact SameResults.getResults
    | exact SameResults.fxOp _
    | exact SameResults.changeResults _
    | exact SameResults.changeSurface _ _
    | exact SameResults.callStage _ _
    | exact SameResults.sumWords _
    | apply SameResults.forEnabled
    | apply SameResults.forTiers
    | apply SameResults.bind
    | apply SameResults.ite
    | intro _

theorem stage6_sameResults (env : CalcEnv) : SameResults (stage6 env) := by
  unfold stage6 setBufferSize mustThrottle throttleBuffer setRequestLimits checkPteRequests
  repeat' with_reducible first
    | exact SameResults.pure _
    | exact SameResults.getSurface _
    | exact SameResults.getResults
    | exact SameResults.fxOp _
    | exact SameResults.changeResults _
    | exact SameResults.changeSurface _ _
    | exact SameResults.callStage _ _
    | exact SameResults.sumWords _
    | apply SameResults.forEnabled
    | apply SameResults.forTiers
    | apply SameResults.bind
    | apply SameResults.ite
    | intro _

theorem stage8_sameResults (env : CalcEnv) : SameResults (stage8 env) := by
  unfold stage8 capabilityGrid gridCell burstTime
  repeat' with_reducible first
    | exact SameResults.pure _
    | exact SameResults.getSurface _
    | exact SameResults.getResults
    | exact SameResults.fxOp _
    | exact SameResults.changeResults _
    | exact SameResults.changeSurface _ _
    | exact SameResults.callStage _ _
    | exact SameResults.sumWords _
    | apply SameResults.forEnabled
    | apply SameResults.forTiers
    | apply SameResults.bind
    | apply SameResults.ite
    | intro _

theorem stage10_sameResults (env : CalcEnv) : SameResults (stage10 env) := by
  unfold stage10
  repeat' with_reducible first
    | exact SameResults.pure _
    | exact SameResults.getSurface _
    | exact SameResults.getResults
    | exact SameResults.fxOp _
    | exact SameResults.changeResults _
    | exact SameResults.changeSurface _ _
    | exact SameResults.callStage _ _
    | exact SameResults.sumWords _
    | apply SameResults.forEnabled
    | apply SameResults.forTiers
    | apply SameResults.bind
    | apply SameResults.ite
    | intro _

theorem stage12_sameResults (env : CalcEnv) : SameResults (stage12 env) := by
  unfold stage12 setWatermarks burstTime
  repeat' with_reducible first
    | exact SameResults.pure _
    | exact SameResults.getSurface _
    | exact SameResults.getResults
    | exact SameResults.fxOp _
    | exact SameResults.changeResults _
    | exact SameResults.changeSurface _ _
    | exact SameResults.callStage _ _
    | exact SameResults.sumWords _
    | apply SameResults.forEnabled
    | apply SameResults.forTiers
    | apply SameResults.bind
    | apply SameResults.ite
    | intro _

theorem stage13_sameResults (env : CalcEnv) : SameResults (stage13 env) := by
  unfold stage13 metric
  repeat' with_reducible first
    | exact SameResults.pure _
    | exact SameResults.getSurface _
    | exact SameResults.getResults
    | exact SameResults.fxOp _
    | exact SameResults.changeResults _
    | exact SameResults.changeSurface _ _
    | exact SameResults.callStage _ _
    | exact SameResults.sumWords _
    | apply SameResults.forEnabled
    | apply SameResults.forTiers
    | apply SameResults.bind
    | apply SameResults.ite
    | intro _

theorem availableAt_sameResults (env : CalcEnv) (reads : Config.TotalReads) (t : Tier) :
    SameResults (availableAt env reads t) :=
  SameResults.bind (SameResults.callStage _ _) fun _ => SameResults.bind (SameResults.callStage _ _) fun _ =>
    SameResults.pure _

theorem stage7_sameResults (env : CalcEnv) : SameResults (stage7 env) := by
  unfold stage7
  repeat' with_reducible first
    | exact SameResults.pure _
    | exact SameResults.getSurface _
    | exact SameResults.getResults
    | exact SameResults.fxOp _
    | exact SameResults.changeResults _
    | exact SameResults.changeSurface _ _
    | exact SameResults.callStage _ _
    | exact SameResults.sumWords _
    | exact availableAt_sameResults _ _ _
    | apply SameResults.forEnabled
    | apply SameResults.forTiers
    | apply SameResults.bind
    | apply SameResults.ite
    | intro _

theorem stage9_sameResults (env : CalcEnv) (totals : Totals) : SameResults (stage9 env totals) := by
  unfold stage9
  repeat' with_reducible first
    | exact SameResults.pure _
    | exact SameResults.getSurface _
    | exact SameResults.getResults
    | exact SameResults.fxOp _
    | exact SameResults.changeResults _
    | exact SameResults.changeSurface _ _
    | exact SameResults.callStage _ _
    | exact SameResults.sumWords _
    | apply SameResults.forEnabled
    | apply SameResults.forTiers
    | apply SameResults.bind
    | apply SameResults.ite
    | intro _

theorem stage11_sameResults (env : CalcEnv) (noFit : NoFit) : SameResults (stage11 env noFit) :=
  SameResults.changeResults _

/-- CALC_CORE gives the same RESULTS whatever conditions were raised before it. -/
theorem calcCore_sameResults (env : CalcEnv) : SameResults (calcCore env) := by
  unfold calcCore
  exact SameResults.bind (SameResults.changeResults _) fun _ => SameResults.bind (stage1_sameResults env) fun _ =>
    SameResults.bind (stage2_sameResults env) fun _ => SameResults.bind (stage3_sameResults env) fun _ =>
    SameResults.bind (stage4_sameResults env) fun _ => SameResults.bind (stage5_sameResults env) fun _ =>
    SameResults.bind (stage6_sameResults env) fun _ => SameResults.bind (stage7_sameResults env) fun t =>
    SameResults.bind (stage8_sameResults env) fun _ => SameResults.bind (stage9_sameResults env t) fun n =>
    SameResults.bind (stage10_sameResults env) fun _ => SameResults.bind (stage11_sameResults env n) fun _ =>
    SameResults.bind (stage12_sameResults env) fun _ => stage13_sameResults env

/-- RESULTS after a CALC_CORE depends on its inputs and on the counter of free values alone: it is cleared first (R203). -/
theorem calcCore_results (env : CalcEnv) (c : CalcState) :
    (calcCore env c).2.results = (calcCore env (CalcState.start c.draws)).2.results := by
  have h := (calcCore_sameResults env).same (CalcState.start c.draws)
    { CalcState.start c.draws with dz := c.dz, ov := c.ov } rfl (.inl rfl)
  have first : ∀ m : Unit → CalcM Unit, (changeResults (fun _ => Results.zero) >>= m) c
      = (changeResults (fun _ => Results.zero) >>= m) { CalcState.start c.draws with dz := c.dz, ov := c.ov } :=
    fun _ => rfl
  rw [← h.2.1]
  unfold calcCore
  exact congrArg (fun p => p.2.results) (first _)

theorem convKhz_sameResults (x : W64) : SameResults (convKhz x) :=
  SameResults.bind (SameResults.fxOp _) fun _ => SameResults.fxOp _

theorem markNs_sameResults (w : W64) : SameResults (markNs w) :=
  SameResults.bind (SameResults.fxOp _) fun _ => SameResults.fxOp _

theorem runPass_sameResults (env : CalcEnv) (p : Pass) : SameResults (runPass env p) :=
  SameResults.bind (calcCore_sameResults _) fun _ => SameResults.bind SameResults.getResults fun _ =>
    SameResults.mapM _ markNs_sameResults

/-- BWCALCS answers the same OUTPUT whatever conditions were raised before it, and whatever the counter where it raises no
DZ. -/
theorem evaluate_sameResults (env : CalcEnv) : SameResults (evaluate env) := by
  unfold evaluate
  repeat' with_reducible first
    | exact SameResults.pure _
    | exact SameResults.getResults
    | exact runPass_sameResults _ _
    | exact convKhz_sameResults _
    | apply SameResults.bind
    | intro _

/-! ## What each stage can change -/

section

variable {β : Type} {g : Results → β}

/-- A view that ignores one part of one surface. -/
def IgnoresSurface (g : Results → β) (change : Surface → Surface → Prop) : Prop :=
  ∀ (r : Results) (i : Slot) (s : Surface), change r.surfaces[i] s → g { r with surfaces := r.surfaces.set i s } = g r

theorem Keeps.changeSurface_of {change : Surface → Surface → Prop} (h : IgnoresSurface g change) (i : Slot)
    (f : Surface → Surface) (hf : ∀ s, change s (f s)) : Keeps g (Machine.changeSurface i f) :=
  Keeps.changeSurface fun r => h r i _ (hf _)

theorem doubleStereo_keeps (s : SurfGeometry) : Keeps g (doubleStereo s) := by
  unfold doubleStereo
  split
  · exact Keeps.bind (Keeps.fxOp _) fun _ => Keeps.pure _
  · exact Keeps.bind (Keeps.fxOp _) fun _ => Keeps.pure _
  · exact Keeps.pure _

theorem halveChroma_keeps (t : SurfaceType) (q : SurfGeometry) :
    Keeps g (halveChroma t q) := by
  unfold halveChroma
  repeat' with_reducible first
    | exact Keeps.pure _
    | exact Keeps.getSurface _
    | exact Keeps.getResults
    | exact Keeps.fxOp _
      | exact Keeps.sumWords _
    | apply Keeps.forEnabled
    | apply Keeps.forTiers
    | apply Keeps.bind
    | apply Keeps.ite
    | intro _

theorem doubleInterlaced_keeps (q : SurfGeometry) :
    Keeps g (doubleInterlaced q) := by
  unfold doubleInterlaced
  repeat' with_reducible first
    | exact Keeps.pure _
    | exact Keeps.getSurface _
    | exact Keeps.getResults
    | exact Keeps.fxOp _
      | exact Keeps.sumWords _
    | apply Keeps.forEnabled
    | apply Keeps.forTiers
    | apply Keeps.bind
    | apply Keeps.ite
    | intro _

theorem roundToChunks_keeps (p : Panning) (q : SurfGeometry) :
    Keeps g (roundToChunks p q) := by
  unfold roundToChunks
  repeat' with_reducible first
    | exact Keeps.pure _
    | exact Keeps.getSurface _
    | exact Keeps.getResults
    | exact Keeps.fxOp _
      | exact Keeps.sumWords _
    | apply Keeps.forEnabled
    | apply Keeps.forTiers
    | apply Keeps.bind
    | apply Keeps.ite
    | intro _

theorem slotGeometry_keeps (env : CalcEnv) (k : SurfClass) :
    Keeps g (slotGeometry env k) := by
  unfold slotGeometry
  repeat' with_reducible first
    | exact Keeps.pure _
    | exact Keeps.getSurface _
    | exact Keeps.getResults
    | exact Keeps.fxOp _
      | exact Keeps.sumWords _
    | exact halveChroma_keeps _ _
    | exact doubleStereo_keeps _
    | exact doubleInterlaced_keeps _
    | exact roundToChunks_keeps _ _
    | apply Keeps.forEnabled
    | apply Keeps.forTiers
    | apply Keeps.bind
    | apply Keeps.ite
    | intro _

/-- Stage 1 changes the surfaces' classification alone. -/
theorem stage1_keeps (env : CalcEnv) (hs : ∀ (r : Results) (v : Vector Surface 12), g { r with surfaces := v } = g r) :
    Keeps g (stage1 env) := Keeps.changeResults fun r => hs r _

/-- Stage 2 changes the surfaces' geometry alone. -/
theorem stage2_keeps (env : CalcEnv)
    (hs : IgnoresSurface g fun a b => b = { a with geo := b.geo }) :
    Keeps g (stage2 env) := by
  unfold stage2
  repeat' with_reducible first
    | exact Keeps.pure _
    | exact Keeps.getSurface _
    | exact Keeps.getResults
    | exact Keeps.fxOp _
      | exact Keeps.sumWords _
    | exact slotGeometry_keeps _ _
    | exact Keeps.changeSurface_of hs _ _ (fun _ => rfl)
    | apply Keeps.forEnabled
    | apply Keeps.forTiers
    | apply Keeps.bind
    | apply Keeps.ite
    | intro _

/-- Stage 3 changes the checks of stage 3, the counts and the line-buffer partitions alone. -/
theorem stage3_keeps (env : CalcEnv)
    (hx : IgnoresExt g) (hs : IgnoresSurface g fun a b => b = { a with lbPartitions := b.lbPartitions })
    (hc : ∀ r m p h v l f o ng nu nw, g { r with
      modeCheck := m, pipeCheck := p, hsrCheck := h, vsrCheck := v, lbSizeCheck := l, fbcCheck := f,
      rotationCheck := o, numberOfEnabledGraphics := ng, numberOfEnabledUnderlay := nu,
      numberOfEnabledWriteback := nw } = g r) :
    Keeps g (stage3 env) := by
  unfold stage3 checkRatios checkLineBuffer checkFbc checkRotation
  repeat' with_reducible first
    | exact Keeps.pure _
    | exact Keeps.getSurface _
    | exact Keeps.getResults
    | exact Keeps.fxOp _
    | exact Keeps.callStage _ _ hx
    | exact Keeps.sumWords _
    | exact Keeps.changeSurface_of hs _ _ (fun _ => rfl)
    | exact Keeps.changeResults fun r => hc r _ _ _ _ _ _ _ _ _ _
    | apply Keeps.forEnabled
    | apply Keeps.forTiers
    | apply Keeps.bind
    | apply Keeps.ite
    | intro _

/-- Stage 4 changes the surfaces' request fields alone. -/
theorem stage4_keeps (env : CalcEnv)
    (hx : IgnoresExt g) (hs : IgnoresSurface g fun a b => b = { a with req := b.req }) :
    Keeps g (stage4 env) := by
  unfold stage4 halveUsefulBytes
  repeat' with_reducible first
    | exact Keeps.pure _
    | exact Keeps.getSurface _
    | exact Keeps.getResults
    | exact Keeps.fxOp _
    | exact Keeps.callStage _ _ hx
    | exact Keeps.sumWords _
    | exact Keeps.changeSurface_of hs _ _ (fun _ => rfl)
    | apply Keeps.forEnabled
    | apply Keeps.forTiers
    | apply Keeps.bind
    | apply Keeps.ite
    | intro _

/-- Stage 5 changes the surfaces' bandwidth fields alone. -/
theorem stage5_keeps (env : CalcEnv)
    (hx : IgnoresExt g) (hs : IgnoresSurface g fun a b => b = { a with bw := b.bw }) :
    Keeps g (stage5 env) := by
  unfold stage5
  repeat' with_reducible first
    | exact Keeps.pure _
    | exact Keeps.getSurface _
    | exact Keeps.getResults
    | exact Keeps.fxOp _
    | exact Keeps.callStage _ _ hx
    | exact Keeps.sumWords _
    | exact Keeps.changeSurface_of hs _ _ (fun _ => rfl)
    | apply Keeps.forEnabled
    | apply Keeps.forTiers
    | apply Keeps.bind
    | apply Keeps.ite
    | intro _

/-- Stage 6 changes the surfaces' buffer fields and the PTE check alone. -/
theorem stage6_keeps (env : CalcEnv)
    (hx : IgnoresExt g) (hs : IgnoresSurface g fun a b => b = { a with buf := b.buf })
    (hc : ∀ r k, g { r with pteRequestCheck := k } = g r) :
    Keeps g (stage6 env) := by
  unfold stage6 setBufferSize mustThrottle throttleBuffer setRequestLimits checkPteRequests
  repeat' with_reducible first
    | exact Keeps.pure _
    | exact Keeps.getSurface _
    | exact Keeps.getResults
    | exact Keeps.fxOp _
    | exact Keeps.callStage _ _ hx
    | exact Keeps.sumWords _
    | exact Keeps.changeSurface_of hs _ _ (fun _ => rfl)
    | exact Keeps.changeResults fun r => hc r _
    | apply Keeps.forEnabled
    | apply Keeps.forTiers
    | apply Keeps.bind
    | apply Keeps.ite
    | intro _

/-- Stage 7 changes the totals, what is available and two checks alone. -/
theorem stage7_keeps (env : CalcEnv)
    (hx : IgnoresExt g)
    (hc : ∀ r x0 x1 x2 x3 x4 x5 x6 x7 x8, g { r with
      totalDmifDramBandwidth := x0, totalMcifwrDramBandwidth := x1, totalDmifSclkBandwidth := x2,
      totalMcifwrSclkBandwidth := x3, requiredDramBandwidthGbytePerSecond := x4, availableDramBandwidth := x5,
      availableSclkBandwidth := x6, pageCloseOpenCheck := x7, maximumBwCheck := x8 } = g r) :
    Keeps g (stage7 env) := by
  unfold stage7 availableAt
  repeat' with_reducible first
    | exact Keeps.pure _
    | exact Keeps.getSurface _
    | exact Keeps.getResults
    | exact Keeps.fxOp _
    | exact Keeps.callStage _ _ hx
    | exact Keeps.sumWords _
    | exact Keeps.changeResults fun r => hc r _ _ _ _ _ _ _ _ _
    | apply Keeps.forEnabled
    | apply Keeps.forTiers
    | apply Keeps.bind
    | apply Keeps.ite
    | intro _

/-- Stage 8 changes the grid and the enables alone. -/
theorem stage8_keeps (env : CalcEnv)
    (hx : IgnoresExt g)
    (hc : ∀ r x0 x1, g { r with
      grid := x0, stateChangeEnable := x1 } = g r) :
    Keeps g (stage8 env) := by
  unfold stage8 capabilityGrid gridCell burstTime
  repeat' with_reducible first
    | exact Keeps.pure _
    | exact Keeps.getSurface _
    | exact Keeps.getResults
    | exact Keeps.fxOp _
    | exact Keeps.callStage _ _ hx
    | exact Keeps.sumWords _
    | exact Keeps.changeResults fun r => hc r _ _
    | apply Keeps.forEnabled
    | apply Keeps.forTiers
    | apply Keeps.bind
    | apply Keeps.ite
    | intro _

/-- Stage 9 changes the two levels and the two required clocks alone. -/
theorem stage9_keeps (env : CalcEnv) (totals : Totals)
    (hc : ∀ r x0 x1 x2 x3, g { r with yClkLevel := x0, sclkLevel := x1, requiredYclk := x2, requiredSclk := x3 } = g r) :
    Keeps g (stage9 env totals) :=
  Keeps.bind Keeps.getResults fun _ => Keeps.bind (Keeps.changeResults fun r => hc r _ _ _ _) fun _ => Keeps.pure _

/-- Stage 10 changes the dispclk fields alone. -/
theorem stage10_keeps (env : CalcEnv)
    (hx : IgnoresExt g)
    (hc : ∀ r x0 x1 x2 x3 x4 x5 x6, g { r with
      dispclkReqPixelThroughput := x0, dispclkReqScalerThroughput := x1, dispclkReqReadRequestThroughput :=
      x2, dispclkRequiredWithoutRamping := x3, dispclkRequiredWithRamping := x4, dispclk := x5,
      dispclkVoltageTier := x6 } = g r) :
    Keeps g (stage10 env) := by
  unfold stage10
  repeat' with_reducible first
    | exact Keeps.pure _
    | exact Keeps.getSurface _
    | exact Keeps.getResults
    | exact Keeps.fxOp _
    | exact Keeps.callStage _ _ hx
    | exact Keeps.sumWords _
    | exact Keeps.changeResults fun r => hc r _ _ _ _ _ _ _
    | apply Keeps.forEnabled
    | apply Keeps.forTiers
    | apply Keeps.bind
    | apply Keeps.ite
    | intro _

/-- Stage 11 changes the voltage, dispclk and required_sclk alone. -/
theorem stage11_keeps (env : CalcEnv) (noFit : NoFit)
    (hc : ∀ r x0 x1 x2, g { r with voltage := x0, dispclk := x1, requiredSclk := x2 } = g r) :
    Keeps g (stage11 env noFit) := Keeps.changeResults fun r => by
  unfold setVoltage
  dsimp only
  split
  · exact hc r _ _ _
  · exact hc r _ r.dispclk r.requiredSclk

/-- Stage 12 changes the surfaces' watermarks alone. -/
theorem stage12_keeps (env : CalcEnv)
    (hx : IgnoresExt g) (hs : IgnoresSurface g fun a b => b = { a with wm := b.wm }) :
    Keeps g (stage12 env) := by
  unfold stage12 setWatermarks burstTime
  repeat' with_reducible first
    | exact Keeps.pure _
    | exact Keeps.getSurface _
    | exact Keeps.getResults
    | exact Keeps.fxOp _
    | exact Keeps.callStage _ _ hx
    | exact Keeps.sumWords _
    | exact Keeps.changeSurface_of hs _ _ (fun _ => rfl)
    | apply Keeps.forEnabled
    | apply Keeps.forTiers
    | apply Keeps.bind
    | apply Keeps.ite
    | intro _

/-- Stage 13 changes the metrics alone. -/
theorem stage13_keeps (env : CalcEnv)
    (hx : IgnoresExt g)
    (hc : ∀ r x0 x1 x2 x3 x4 x5 x6, g { r with
      dramAccessEfficiency := x0, writeAccessEfficiency := x1, averageBandwidthNoCompression := x2,
      averageBandwidth := x3, stutterEfficiency := x4, immediateFlipLatency := x5, worstCaseLatencyNonDisplay
      := x6 } = g r) :
    Keeps g (stage13 env) := by
  unfold stage13 metric
  repeat' with_reducible first
    | exact Keeps.pure _
    | exact Keeps.getSurface _
    | exact Keeps.getResults
    | exact Keeps.fxOp _
    | exact Keeps.callStage _ _ hx
    | exact Keeps.sumWords _
    | exact Keeps.changeResults fun r => hc r _ _ _ _ _ _ _
    | apply Keeps.forEnabled
    | apply Keeps.forTiers
    | apply Keeps.bind
    | apply Keeps.ite
    | intro _

end

end Sys2Proof.Machine
end

