-- ==== Sys2Proof/Laws/Reference.lean ====
section
/-!
SUPPORT. Conforming parameters exist (44_bwe_init.md R192; 45_bwe_calculate.md R231, R233): constant formulas and constant
tables meet every condition of `Conforms`. They stand for no hardware. They only show that the machine's own parameters, about
which nothing but their conformance is known (Machine/Implementation.lean), are not asked for the impossible.
-/

namespace Sys2Proof.Machine

open Config (StageProgram StageFns BweParams)

/-- A formula whose value is one word whatever it reads. -/
def constantProgram (w : W64) : StageProgram where
  ops := [.word w]
  value := 0

/-- Constant formulas: enough line-buffer partitions and latency hiding, and 0 for everything else. -/
def constantStages : StageFns where
  lbPartitions _ _ _ := constantProgram (fx 17)
  bytesPerRequest _ _ _ := constantProgram 0
  usefulBytesPerRequest _ _ _ := constantProgram 0
  linesInterleaved _ _ _ := constantProgram 0
  latencyHidingLines _ _ _ := constantProgram 0
  vFilterInit _ _ _ := constantProgram 0
  linesInPerLineOutBeginning _ _ _ := constantProgram 0
  requestBandwidth _ _ _ := constantProgram 0
  dataBufferSize _ _ _ := constantProgram 0
  throttledBufferSize _ _ _ := constantProgram 0
  chunkRequestLimit _ _ _ := constantProgram 0
  pteRequestLimit _ _ _ := constantProgram 0
  cursorAndPteDramOverhead _ _ := constantProgram 0
  dmifSclkBandwidth _ _ := constantProgram 0
  mcifwrSclkBandwidth _ _ := constantProgram 0
  toGbytePerSecond _ _ _ := constantProgram 0
  availableDramBandwidth _ _ _ := constantProgram 0
  availableSclkBandwidth _ _ _ := constantProgram 0
  pageCloseOpenOk _ _ := constantProgram 1
  hidingTime _ _ _ _ _ := constantProgram (fx 9)
  burstTime _ _ _ _ := constantProgram 0
  stateChangeDispclk _ _ _ _ _ := constantProgram 0
  dispclkPixelThroughput _ _ := constantProgram 0
  dispclkScalerThroughput _ _ := constantProgram 0
  dispclkReadRequestThroughput _ _ := constantProgram 0
  lineSourceTransferTime _ _ _ := constantProgram 0
  totalUrgentLatency _ _ := constantProgram 0
  requestTimeOverhead _ _ _ := constantProgram 0
  cursorBufferLimit _ _ _ := constantProgram 0
  dramAccessEfficiency _ _ := constantProgram 0
  writeAccessEfficiency _ _ := constantProgram 0
  averageBandwidthNoCompression _ _ := constantProgram 0
  averageBandwidth _ _ := constantProgram 0
  stutterEfficiency _ _ := constantProgram 0
  immediateFlipLatency _ _ := constantProgram 0
  worstCaseLatencyNonDisplay _ _ := constantProgram 0

/-- Parameters with constant formulas and constant tables. -/
def constantParameters : Parameters where
  bwe := { stage := constantStages, hsrVsrOk := fun _ _ _ _ _ => true, ulBpp := fun _ _ => 1, vscDepths := (6, 8, 10, 12) }
  capDceip _ _ _ := fx 1
  capVbios _ _ := fx 1

/-- A constant formula answers its word. -/
@[simp] theorem callStage_constantProgram (env : CalcEnv) (w : W64) (c : CalcState) :
    (callStage env (fun _ => constantProgram w) c).1 = w := rfl

/-- A formula is not above itself. -/
theorem notAbove_refl (p : StageProgram) : NotAbove p p := fun _ _ _ => by simp [Fx.le]

theorem constantStages_monotone : Monotone constantStages where
  requestBandwidth _ _ _ _ _ _ := notAbove_refl _
  overhead _ _ _ _ := notAbove_refl _
  toGbyte _ _ _ _ _ := notAbove_refl _

/-- Stage 7 stores what to_gbyte_per_second answers; here 0. -/
theorem stage7_gbyte (env : CalcEnv) (h : env.params.stage = constantStages) (c : CalcState) :
    (stage7 env c).2.results.requiredDramBandwidthGbytePerSecond = 0 := by
  unfold stage7
  simp only [CalcM.bind_apply, changeResults_apply, CalcM.pure_apply, h]
  rfl

/-- With constant formulas required_dram_bandwidth_gbyte_per_second is 0. -/
theorem calcCore_gbyte (env : CalcEnv) (h : env.params.stage = constantStages) (c : CalcState) :
    (calcCore env c).2.results.requiredDramBandwidthGbytePerSecond = 0 := by
  let g : Results → W64 := Results.requiredDramBandwidthGbytePerSecond
  have hx : IgnoresExt g := fun _ _ => rfl
  have hs : ∀ change, IgnoresSurface g change := fun _ _ _ _ _ => rfl
  unfold calcCore
  simp only [CalcM.bind_apply]
  refine (stage13_keeps (g := g) env hx (fun _ _ _ _ _ _ _ _ => rfl) _).trans ?_
  refine (stage12_keeps (g := g) env hx (hs _) _).trans ?_
  refine (stage11_keeps (g := g) env _ (fun _ _ _ _ => rfl) _).trans ?_
  refine (stage10_keeps (g := g) env hx (fun _ _ _ _ _ _ _ _ => rfl) _).trans ?_
  refine (stage9_keeps (g := g) env _ (fun _ _ _ _ _ => rfl) _).trans ?_
  refine (stage8_keeps (g := g) env hx (fun _ _ _ => rfl) _).trans ?_
  exact stage7_gbyte env h _

theorem constantParameters_width : WidthNeverLowersDemand constantParameters.bwe := by
  intro dceip vbios raw w draws draws' _ _ _ _ run _ _
  rw [calcCore_gbyte _ rfl, calcCore_gbyte _ rfl]
  rfl

/-! ## Scenario A -/

/-- Scenario A with the constant parameters, at one value of the counter. -/
theorem constantParameters_scenarioA_zero :
    let core := (calcCore (scenarioA constantParameters) (CalcState.start 0)).2
    let eval := evaluate (scenarioA constantParameters) (CalcState.start 0)
    core.dz = false ∧ core.results.modeCheck = .ok ∧ core.results.yClkLevel = .low
      ∧ eval.2.dz = false ∧ eval.1.supported = true := by decide +kernel

theorem constantParameters_scenarioA : ScenarioAHolds constantParameters := by
  intro draws
  obtain ⟨h1, h2, h3, h4, h5⟩ := constantParameters_scenarioA_zero
  have hcore := ((calcCore_sameResults (scenarioA constantParameters)).same (CalcState.start 0) (CalcState.start draws) rfl
    (.inr h1)).2.1
  have heval := ((evaluate_sameResults (scenarioA constantParameters)).same (CalcState.start 0) (CalcState.start draws) rfl
    (.inr h4)).1
  rw [hcore, heval]
  exact ⟨h2, h3, h5⟩

/-- The constant parameters conform. -/
theorem constantParameters_conforms : Conforms constantParameters :=
  ⟨constantStages_monotone, constantParameters_width, constantParameters_scenarioA⟩

end Sys2Proof.Machine
end

