-- ==== Sys2Proof/Machine/Implementation.lean ====
section
/-!
DEFINITION. The OPEN parameters of this machine (00_scope.md R7) on which the spec puts conditions: body-less constants that
meet them (Machine/Conformance.lean), so that a theorem holds of every implementation the spec allows and of no other; and
`CAP_TABLE`, the capability tables that BWE.INIT loads (44_bwe_init.md R190 to R192). Log entries 10 to 14.
-/

namespace Sys2Proof.Machine

/-- An implementation: parameters that conform. (The default only shows that there is one, Laws/Reference.lean; it is the value
of no constant below.) -/
structure Implementation where
  params : Parameters := constantParameters
  conforms : Conforms params := by exact constantParameters_conforms
  deriving Inhabited

end Sys2Proof.Machine

namespace Sys2Proof.Config

open Sys2Proof.Machine

/-- This machine's OPEN parameters: any that conform, with no body to evaluate. -/
opaque implementation : Implementation

/-- The OPEN parameters of the BWE's calculation (R7): `STAGE_FNS`, `HSR_VSR_OK`, `UL_BPP` and `VSC_DEPTHS`. -/
def bwe : BweParams := implementation.params.bwe

/-- The raw contents from which the DCEIP tables are formed (family code, Stoney bit, slot number). -/
def capDceip : Nat → Bool → Nat → W64 := implementation.params.capDceip

/-- The raw contents from which the VBIOS tables are formed (family code, slot number). -/
def capVbios : Nat → Nat → W64 := implementation.params.capVbios

end Sys2Proof.Config

namespace Sys2Proof.Machine

/-- DCEIP slot k of `CAP_TABLE` (R192). -/
def capDceipSlot (version : Nat) (stoney : Bool) (k : Nat) : W64 := tableDceipSlot Config.capDceip version stoney k

/-- VBIOS slot k of `CAP_TABLE` (R192). -/
def capVbiosSlot (version : Nat) (k : Nat) : W64 := tableVbiosSlot Config.capVbios version k

/-- The 256 DCEIP slots that INIT writes: the family's table, or zeros for an unknown family (R190, R191). -/
def initDceip (version : BitVec 4) (stoney : Bool) : List W64 :=
  (List.range 256).map fun k =>
    if 1 ≤ version.toNat ∧ version.toNat ≤ 3 then capDceipSlot version.toNat (stoney && version == 1) k else 0

/-- The 256 VBIOS slots that INIT writes (R190, R191). -/
def initVbios (version : BitVec 4) : List W64 :=
  (List.range 256).map fun k => if 1 ≤ version.toNat ∧ version.toNat ≤ 3 then capVbiosSlot version.toNat k else 0

end Sys2Proof.Machine
end

