-- ==== Sys2Proof/Machine/Store.lean ====
section
/-!
DEFINITION. The slot layouts of RESULTS and OUTPUT (10_state.md R35, R36), by which a BWE command stores what it built,
and the operations that end a BWE command.
-/

namespace Sys2Proof.Machine

/-! ## RESULTS (R35) -/

/-- The tier with this code (R45). -/
def tierOfRank : Nat → Tier
  | 0 => .low
  | 1 => .mid
  | _ => .high

/-- The capability X of the grid layout (R35). -/
def capabilityOfIndex : Nat → Capability
  | 0 => .nbp
  | 1 => .cpup
  | _ => .cpuc

/-- An INT slot that holds a count or a level. -/
def wordOfNat (n : Nat) : W64 := BitVec.ofNat 64 n

/-- Entry t of the state-change grid: X = t / 18, K = t / 9 mod 2, y = t / 3 mod 3, s = t mod 3 (R35). -/
def Results.gridSlot (r : Results) (t : Nat) : W64 :=
  let cell := r.cell (capabilityOfIndex (t / 18)) (tierOfRank (t / 3 % 3)) (tierOfRank (t % 3))
  if t / 9 % 2 = 0 then cell.margin else cell.dispclkRequired

/-- RESULTS slots 0 to 127 (R35). -/
def Results.scalarSlot (r : Results) (k : Nat) : W64 :=
  match k with
  | 0 => r.modeCheck.code
  | 1 => r.pipeCheck.code
  | 2 => r.hsrCheck.code
  | 3 => r.vsrCheck.code
  | 4 => r.lbSizeCheck.code
  | 5 => r.fbcCheck.code
  | 6 => r.rotationCheck.code
  | 7 => wordOfNat r.yClkLevel.rank
  | 8 => wordOfNat r.sclkLevel.rank
  | 9 => r.dispclk
  | 10 => r.dispclkRequiredWithoutRamping
  | 11 => r.dispclkRequiredWithRamping
  | 12 => r.requiredSclk
  | 13 => r.requiredYclk
  | 14 => r.voltage.code
  | 15 => wordOfBool r.stateChangeEnable.nbp
  | 16 => wordOfBool r.stateChangeEnable.cpup
  | 17 => wordOfBool r.stateChangeEnable.cpuc
  | 18 => r.totalDmifDramBandwidth
  | 19 => r.totalMcifwrDramBandwidth
  | 20 => r.totalDmifSclkBandwidth
  | 21 => r.totalMcifwrSclkBandwidth
  | 22 => r.requiredDramBandwidthGbytePerSecond
  | 23 => r.pageCloseOpenCheck.code
  | 24 => r.maximumBwCheck.code
  | 25 => r.pteRequestCheck.code
  | 26 => r.dramAccessEfficiency
  | 27 => r.writeAccessEfficiency
  | 28 => r.averageBandwidthNoCompression
  | 29 => r.averageBandwidth
  | 30 => r.stutterEfficiency
  | 31 => r.immediateFlipLatency
  | 32 => r.worstCaseLatencyNonDisplay
  | 33 => wordOfNat r.numberOfEnabledGraphics
  | 34 => wordOfNat r.numberOfEnabledUnderlay
  | 35 => wordOfNat r.numberOfEnabledWriteback
  | 90 => r.availableDramBandwidth.low
  | 91 => r.availableDramBandwidth.mid
  | 92 => r.availableDramBandwidth.high
  | 93 => r.availableSclkBandwidth.low
  | 94 => r.availableSclkBandwidth.mid
  | 95 => r.availableSclkBandwidth.high
  | 96 => r.dispclkReqPixelThroughput
  | 97 => r.dispclkReqScalerThroughput
  | 98 => r.dispclkReqReadRequestThroughput
  | 99 => wordOfNat r.dispclkVoltageTier
  | k => if k < 90 then r.gridSlot (k - 36) else extSlot r.ext k

/-- Array j, 0 to 35, of one surface slot (R35). -/
def Surface.array (s : Surface) (j : Nat) : W64 :=
  match j with
  | 0 => wordOfBool s.cls.enable
  | 1 => s.cls.surfaceType.code
  | 2 => wordOfBool s.cls.useAlpha
  | 3 => s.cls.bytesPerPixel
  | 4 => s.geo.sourceWidth
  | 5 => s.geo.sourceHeight
  | 6 => s.geo.hsr
  | 7 => s.geo.vsr
  | 8 => s.geo.hTaps
  | 9 => s.geo.vTaps
  | 10 => s.geo.rotationAngle
  | 11 => s.geo.stereoMode.code
  | 12 => wordOfBool s.geo.interlace
  | 13 => s.geo.tilingMode.code
  | 14 => wordOfBool s.geo.orthogonalRotation
  | 15 => s.geo.widthRoundedUpToChunks
  | 16 => s.lbPartitions
  | 17 => s.req.bytesPerRequest
  | 18 => s.req.usefulBytesPerRequest
  | 19 => s.req.linesInterleaved
  | 20 => s.req.latencyHidingLines
  | 21 => s.bw.vFilterInit
  | 22 => wordOfBool s.bw.lbPrefetchEligible
  | 23 => s.bw.linesInPerLineOutBeginning
  | 24 => s.bw.linesInPerLineOutMiddle
  | 25 => s.bw.requestBandwidth
  | 26 => s.bw.displayBandwidth
  | 27 => s.buf.dataBufferSize
  | 28 => s.buf.outstandingChunkRequestLimit
  | 29 => s.buf.outstandingPteRequestLimit
  | 30 => s.wm.lineSourceTransferTime
  | 31 => s.wm.urgent
  | 32 => s.wm.stutterExit
  | 33 => s.wm.nbpStateChange
  | 34 => wordOfBool s.geo.scatterGatherEnable
  | _ => wordOfNat s.cls.displayIndex

/-- RESULTS slot k, 0 to 2047: scalars, then array j of slot i at 128 + 16j + i; i = 12..15 is reserved and 0 (R35). -/
def Results.slot (r : Results) (k : Nat) : W64 :=
  if k < 128 then r.scalarSlot k
  else if h : (k - 128) % 16 < 12 then
    if (k - 128) / 16 < 36 then (r.surfaces[(⟨(k - 128) % 16, h⟩ : Slot)]).array ((k - 128) / 16) else extSlot r.ext k
  else 0

/-- All 2048 slots (R203: every RESULTS slot is written). -/
def Results.slots (r : Results) : List W64 := (List.range 2048).map r.slot

/-! ## OUTPUT (R36) -/

/-- OUTPUT slots 0 to 6. -/
def Output.scalars (o : Output) : List W64 :=
  [wordOfBool o.supported, o.dispclkKhz, o.requiredSclk, o.requiredYclk, wordOfBool o.stateChangeEnable.nbp,
   wordOfBool o.stateChangeEnable.cpup, wordOfBool o.stateChangeEnable.cpuc]

/-! ## The end of a BWE command -/

/-- RESULTS is written (R203). -/
def State.storeResults (s : State) (r : Results) : State :=
  { s with mem := s.mem.storeSlots (slotOffset resultsBase 0) r.slots }

/-- OUTPUT slots 0 to 6 and 8 to 79 are written, no other (R36, R264, R267, R272). -/
def State.storeOutput (s : State) (o : Output) : State :=
  { s with
    mem := (s.mem.storeSlots (slotOffset outputBase 0) o.scalars).storeSlots (slotOffset outputBase 8) o.marks }

/-- A condition raised if a calculation raised it (60_exceptions.md R296). -/
def State.raiseBweIf (s : State) (b : Bool) (c : Cond) : State := if b then s.raiseBwe c else s

/-- The conditions and the counter of a finished calculation (R235, R270). -/
def State.recordCalc (s : State) (c : CalcState) : State :=
  { (s.raiseBweIf c.dz .dz).raiseBweIf c.ov .ov with draws := c.draws }

/-- BWE_STATUS.RES_VALID is set (R26). -/
def State.setResValid (s : State) : State := { s with bweStatus := s.bweStatus ||| resValidBit }

/-- BWE_STATUS.OUT_VALID is set and SUPPORTED takes the verdict (R26, R271). -/
def State.setVerdict (s : State) (supported : Bool) : State :=
  { s with bweStatus := assignBit s.bweStatus supportedBit supported ||| outValidBit }

/-- INIT's writes (44_bwe_init.md R190). -/
def State.loadTables (s : State) (version : BitVec 4) (stoney : Bool) : State :=
  { s with
    mem := (s.mem.storeSlots (slotOffset dceipBase 0) (initDceip version stoney)).storeSlots (slotOffset vbiosBase 0)
      (initVbios version)
    bweVersion := versionWord version (stoney && version == 1) }

end Sys2Proof.Machine
end

