-- ==== Sys2Proof/Machine/Bwe.lean ====
section
/-!
DEFINITION. The meanings of BWE.NOP (30_encoding.md R103), BWE.INIT (44_bwe_init.md R190), BWE.CALC
(45_bwe_calculate.md R200) and BWE.BWCALCS (46_bwe_bwcalcs.md R260).
-/

namespace Sys2Proof.Machine

/-- What a CALC_CORE reads, from the records and the OPEN parameters. -/
def calcEnv (m : Memory) (mode : Mode) : CalcEnv := ⟨Config.bwe, loadDceip m, loadVbios m, mode⟩

/-- The outcome of a BWE command whose MODE has been read: the fault of R311 while MODE, or a DCEIP or VBIOS field the
command needs, holds no value; ILL alone for an illegal MODE (R200, R271); else the command's own effect. -/
def withLegalMode (s : State) (needsCapabilities : Mode → Bool) (run : Mode → State) :
    Host.Outcome State Fault Refusal :=
  match loadMode s.mem with
  | .unwritten a => .fault (.unwrittenSlot a)
  | .illegal => .next (s.raiseBwe .ill)
  | .legal mode =>
    if needsCapabilities mode then
      match firstUnwritten s.mem capabilityOffsets with
      | some a => .fault (.unwrittenSlot a)
      | none => .next (run mode)
    else .next (run mode)

/-- CALC with a legal MODE (R200). -/
def State.calc (s : State) (env : CalcEnv) : State :=
  let c := (calcCore env (CalcState.start s.draws)).2
  ((s.storeResults c.results).recordCalc c).setResValid

/-- BWCALCS with a legal MODE of one display or more (R260, R271). -/
def State.evaluate (s : State) (env : CalcEnv) : State :=
  let r := Machine.evaluate env (CalcState.start s.draws)
  ((((s.storeResults r.2.results).storeOutput r.1).recordCalc r.2).setResValid).setVerdict r.1.supported

/-- BWCALCS with no display (R261). -/
def State.evaluateNothing (s : State) : State := (s.storeOutput zeroDisplayOutput).setVerdict true

/-- BWE.NOP (R103). -/
def execBweNop (s : State) : Host.Outcome State Fault Refusal := .next s

/-- BWE.INIT (R190). -/
def execBweInit (version : BitVec 4) (stoneyRev : Bool) (s : State) : Host.Outcome State Fault Refusal :=
  .next (s.loadTables version stoneyRev)

/-- BWE.CALC (R200). -/
def execBweCalc (s : State) : Host.Outcome State Fault Refusal :=
  withLegalMode s (fun _ => true) fun mode => s.calc (calcEnv s.mem mode)

/-- BWE.BWCALCS (R260). -/
def execBweBwcalcs (s : State) : Host.Outcome State Fault Refusal :=
  withLegalMode s (fun mode => decide (0 < mode.n)) fun mode =>
    if mode.n = 0 then s.evaluateNothing else s.evaluate (calcEnv s.mem mode)

end Sys2Proof.Machine
end

