-- ==== Sys2Proof/Machine/Move.lean ====
section
/-!
DEFINITION. The meanings of LDI, LDIH, MOV, NOP (43_fxu_move.md).
-/

namespace Sys2Proof.Machine

/-- LDI (R180). -/
def execLdi (rd : Reg) (imm16 : BitVec 16) (s : State) : Host.Outcome State Fault Refusal :=
  .next (s.retire rd (.exact (immSigned imm16)))

/-- LDIH (R181): the old value of rd is read too. -/
def execLdih (rd : Reg) (imm16 : BitVec 16) (s : State) : Host.Outcome State Fault Refusal :=
  .next (s.fxu1 (fun old => .exact (immShiftedIn old imm16)) rd rd)

/-- MOV (R182). -/
def execMov (rd rs1 : Reg) (s : State) : Host.Outcome State Fault Refusal := .next (s.fxu1 .exact rd rs1)

/-- NOP (R183). -/
def execNop (s : State) : Host.Outcome State Fault Refusal := .next s

end Sys2Proof.Machine
end

