-- ==== Sys2Proof/Machine/Rounding.lean ====
section
/-!
DEFINITION. The meanings of FLOOR, CEIL, FROMINT, FROMFRAC, TOINT (41_fxu_rounding.md).
-/

namespace Sys2Proof.Machine

/-- FLOOR (R140). -/
def execFloor (rd rs1 rs2 : Reg) (s : State) : Host.Outcome State Fault Refusal := .next (s.fxu2 Fx.floor rd rs1 rs2)

/-- CEIL (R141). -/
def execCeil (rd rs1 rs2 : Reg) (s : State) : Host.Outcome State Fault Refusal := .next (s.fxu2 Fx.ceil rd rs1 rs2)

/-- FROMINT (R142). -/
def execFromint (rd rs1 : Reg) (s : State) : Host.Outcome State Fault Refusal := .next (s.fxu1 Fx.fromInt rd rs1)

/-- FROMFRAC (R143). -/
def execFromfrac (rd rs1 rs2 : Reg) (s : State) : Host.Outcome State Fault Refusal :=
  .next (s.fxu2 Fx.fromFrac rd rs1 rs2)

/-- TOINT (R144). -/
def execToint (rd rs1 : Reg) (s : State) : Host.Outcome State Fault Refusal := .next (s.fxu1 Fx.toInt rd rs1)

end Sys2Proof.Machine
end

