-- ==== Sys2Proof/Machine/Select.lean ====
section
/-!
DEFINITION. The meanings of MIN, MAX, CLT, CLE, CEQ, CNE, CGT, CGE (42_fxu_select_compare.md).
-/

namespace Sys2Proof.Machine

/-- MIN (R160). -/
def execMin (rd rs1 rs2 : Reg) (s : State) : Host.Outcome State Fault Refusal := .next (s.select2 Fx.min rd rs1 rs2)

/-- MAX (R161). -/
def execMax (rd rs1 rs2 : Reg) (s : State) : Host.Outcome State Fault Refusal := .next (s.select2 Fx.max rd rs1 rs2)

/-- CLT (R162). -/
def execClt (rd rs1 rs2 : Reg) (s : State) : Host.Outcome State Fault Refusal := .next (s.compare2 Fx.lt rd rs1 rs2)

/-- CLE (R163). -/
def execCle (rd rs1 rs2 : Reg) (s : State) : Host.Outcome State Fault Refusal := .next (s.compare2 Fx.le rd rs1 rs2)

/-- CEQ (R164). -/
def execCeq (rd rs1 rs2 : Reg) (s : State) : Host.Outcome State Fault Refusal := .next (s.compare2 Fx.eq rd rs1 rs2)

/-- CNE (R165). -/
def execCne (rd rs1 rs2 : Reg) (s : State) : Host.Outcome State Fault Refusal := .next (s.compare2 Fx.ne rd rs1 rs2)

/-- CGT (R166). -/
def execCgt (rd rs1 rs2 : Reg) (s : State) : Host.Outcome State Fault Refusal := .next (s.compare2 Fx.gt rd rs1 rs2)

/-- CGE (R167). -/
def execCge (rd rs1 rs2 : Reg) (s : State) : Host.Outcome State Fault Refusal := .next (s.compare2 Fx.ge rd rs1 rs2)

end Sys2Proof.Machine
end

