-- ==== Sys2Proof/Machine/Dispatch.lean ====
section
/-! DEFINITION. The meaning of every command: one arm per constructor of Instr. -/

namespace Sys2Proof.Machine

def exec (i : Instr) (s : State) : Host.Outcome State Fault Refusal :=
  match i with
  | .add rd rs1 rs2 => Sys2Proof.Machine.execAdd rd rs1 rs2 s
  | .sub rd rs1 rs2 => Sys2Proof.Machine.execSub rd rs1 rs2 s
  | .mul rd rs1 rs2 => Sys2Proof.Machine.execMul rd rs1 rs2 s
  | .div rd rs1 rs2 => Sys2Proof.Machine.execDiv rd rs1 rs2 s
  | .mod rd rs1 rs2 => Sys2Proof.Machine.execMod rd rs1 rs2 s
  | .neg rd rs1 => Sys2Proof.Machine.execNeg rd rs1 s
  | .abs rd rs1 => Sys2Proof.Machine.execAbs rd rs1 s
  | .floor rd rs1 rs2 => Sys2Proof.Machine.execFloor rd rs1 rs2 s
  | .ceil rd rs1 rs2 => Sys2Proof.Machine.execCeil rd rs1 rs2 s
  | .fromint rd rs1 => Sys2Proof.Machine.execFromint rd rs1 s
  | .fromfrac rd rs1 rs2 => Sys2Proof.Machine.execFromfrac rd rs1 rs2 s
  | .toint rd rs1 => Sys2Proof.Machine.execToint rd rs1 s
  | .min rd rs1 rs2 => Sys2Proof.Machine.execMin rd rs1 rs2 s
  | .max rd rs1 rs2 => Sys2Proof.Machine.execMax rd rs1 rs2 s
  | .clt rd rs1 rs2 => Sys2Proof.Machine.execClt rd rs1 rs2 s
  | .cle rd rs1 rs2 => Sys2Proof.Machine.execCle rd rs1 rs2 s
  | .ceq rd rs1 rs2 => Sys2Proof.Machine.execCeq rd rs1 rs2 s
  | .cne rd rs1 rs2 => Sys2Proof.Machine.execCne rd rs1 rs2 s
  | .cgt rd rs1 rs2 => Sys2Proof.Machine.execCgt rd rs1 rs2 s
  | .cge rd rs1 rs2 => Sys2Proof.Machine.execCge rd rs1 rs2 s
  | .ldi rd imm16 => Sys2Proof.Machine.execLdi rd imm16 s
  | .ldih rd imm16 => Sys2Proof.Machine.execLdih rd imm16 s
  | .mov rd rs1 => Sys2Proof.Machine.execMov rd rs1 s
  | .nop => Sys2Proof.Machine.execNop s
  | .bweNop => Sys2Proof.Machine.execBweNop s
  | .bweInit version stoneyRev => Sys2Proof.Machine.execBweInit version stoneyRev s
  | .bweCalc => Sys2Proof.Machine.execBweCalc s
  | .bweBwcalcs => Sys2Proof.Machine.execBweBwcalcs s

end Sys2Proof.Machine
end

