-- ==== Sys2Proof/Machine/Step.lean ====
section
/-!
DEFINITION. One step: the next event of the host is taken and served (20_memory.md R79); a command it issues executes
completely within the step (70_reset_and_hazards.md R315). With no event left the block waits (R312, R319).
-/

namespace Sys2Proof.Machine

/-- What becomes of a served event. -/
def Served.outcome : Served → Host.Outcome State Fault Refusal
  | .next s => .next s
  | .command i s => exec i s
  | .fault f => .fault f
  | .refused r => .refused r

/-- One step of the machine. -/
def step (s : State) : Host.Outcome State Fault Refusal :=
  match s.pending with
  | [] => .next s
  | e :: rest => ({ s with pending := rest }.serve e).outcome

/-- `s` with the host about to write this word of the opcode table to its command register (log entries 5 and 18). -/
def State.withFetchWord (s : State) (nbits w : Nat) : State := { s with pending := tableWordEvent nbits w :: s.pending }

end Sys2Proof.Machine
end

