-- ==== Sys2Proof/Safety.lean ====
section
/-!
DEFINITION. What claims speak of: the bits and fields a claim reads, the relations between the state before and after a
command, the invariant of the machine, and which end states support a claim (70_reset_and_hazards.md R319).
-/

namespace Sys2Proof.Machine

/-! ## Bits -/

/-- Whether a register has all bits of `bit` set. -/
def bitSet (w bit : W32) : Bool := w &&& bit == bit

/-- The bits of FXU_STATUS a host write may clear and a command may set (10_state.md R24). -/
def fxuStickyBits : W32 := 0x7

/-- The sticky bits of BWE_STATUS (10_state.md R26). -/
def bweStickyBits : W32 := 0xE

/-- The named bits of BWE_STATUS (10_state.md R26). -/
def bweStatusBits : W32 := 0x3F

/-! ## The state before and after a command -/

/-- Every byte of the records reads the same. -/
def sameMemory (s t : State) : Prop := ∀ a, t.mem.read a = s.mem.read a

/-- Every byte of the records outside [lo, hi) reads the same. -/
def sameMemoryOutside (lo hi : Nat) (s t : State) : Prop := ∀ a, ¬(lo ≤ a ∧ a < hi) → t.mem.read a = s.mem.read a

/-- What no FXU command touches: the records, BWE_STATUS, BWE_VERSION (60_exceptions.md R296), and the host's side. -/
structure FxuFrame (s t : State) : Prop where
  memory : sameMemory s t
  bweStatus : t.bweStatus = s.bweStatus
  bweVersion : t.bweVersion = s.bweVersion
  pending : t.pending = s.pending
  response : t.response = s.response

/-- What an FXU command that writes `v` to FRrd and raises the status bits `raised` does, and nothing else (40_fxu_arith.md
R109). -/
structure FxuWrites (s t : State) (rd : Reg) (v : W64) (raised : W32) : Prop where
  value : t.frValue rd = v
  written : t.fr[rd].written = true
  others : ∀ r : Reg, r ≠ rd → t.fr[r] = s.fr[r]
  status : t.fxuStatus = s.fxuStatus ||| raised
  frame : FxuFrame s t

/-- What no BWE command touches: FR0 to FR15 and FXU_STATUS (60_exceptions.md R296), and the host's side. -/
structure BweFrame (s t : State) : Prop where
  fr : ∀ r : Reg, t.fr[r] = s.fr[r]
  fxuStatus : t.fxuStatus = s.fxuStatus
  pending : t.pending = s.pending
  response : t.response = s.response
  launchFault : t.launchFault = s.launchFault

/-! ## Command words, field by field (30_encoding.md R91, R100) -/

/-- The R-format word with these fields: op in bits 31:26, rd 25:22, rs1 21:18, rs2 17:14. -/
def fxuWordR (op : Nat) (rd rs1 rs2 : Reg) : W32 :=
  BitVec.ofNat 32 (op * 2 ^ 26 + rd.val * 2 ^ 22 + rs1.val * 2 ^ 18 + rs2.val * 2 ^ 14)

/-- The I-format word with these fields: op in bits 31:26, rd 25:22, imm16 15:0. -/
def fxuWordI (op : Nat) (rd : Reg) (imm16 : BitVec 16) : W32 :=
  BitVec.ofNat 32 (op * 2 ^ 26 + rd.val * 2 ^ 22 + imm16.toNat)

/-- The BWE word with these fields: CMD in bits 3:0, VERSION 7:4, STONEY_REV 8. -/
def bweWord (cmd : Nat) (version : BitVec 4) (stoney : Bool) : W32 :=
  BitVec.ofNat 32 (cmd + version.toNat * 2 ^ 4 + stoney.toNat * 2 ^ 8)

/-- Of all words, `w` and no other is the command `i` of unit `u` (30_encoding.md R94, R100: the match and the mask). -/
def OnlyWord (u : CmdUnit) (w : W32) (i : Instr) : Prop := ∀ w', decode u w' = .ok i ↔ w' = w

/-- The word `w` of FXU_CMD, and no other, is the command `i`, and executing `i` from `s` completes in `t`, which differs from `s` in
FRrd, which holds `v`, and in the status bits `raised`, which are set. A command so described completes also where a register it
reads holds no value, with the 64 bits that register has: the model's choice (log entry 1), where 40_fxu_arith.md R109 and
70_reset_and_hazards.md R311 ask for a fault. -/
structure FxuExecutes (w : W32) (i : Instr) (s t : State) (rd : Reg) (v : W64) (raised : W32) : Prop where
  word : OnlyWord .fxu w i
  runs : exec i s = .next t
  writes : FxuWrites s t rd v raised

/-- The registers a command reads (the operands of the rules of files 40 to 43; LDIH reads rd, 43_fxu_move.md R181). -/
def sourcesOf : Instr → List Reg
  | .add _ a b => [a, b]
  | .sub _ a b => [a, b]
  | .mul _ a b => [a, b]
  | .div _ a b => [a, b]
  | .mod _ a b => [a, b]
  | .neg _ a => [a]
  | .abs _ a => [a]
  | .floor _ a b => [a, b]
  | .ceil _ a b => [a, b]
  | .fromint _ a => [a]
  | .fromfrac _ a b => [a, b]
  | .toint _ a => [a]
  | .min _ a b => [a, b]
  | .max _ a b => [a, b]
  | .clt _ a b => [a, b]
  | .cle _ a b => [a, b]
  | .ceq _ a b => [a, b]
  | .cne _ a b => [a, b]
  | .cgt _ a b => [a, b]
  | .cge _ a b => [a, b]
  | .ldi _ _ => []
  | .ldih rd _ => [rd]
  | .mov _ a => [a]
  | .nop => []
  | .bweNop => []
  | .bweInit _ _ => []
  | .bweCalc => []
  | .bweBwcalcs => []

/-- A list of commands executed one after the other; none if one of them stops. -/
def runInstrs : List Instr → State → Option State
  | [], s => some s
  | i :: is, s =>
    match exec i s with
    | .next t => runInstrs is t
    | .fault _ => none
    | .refused _ => none

/-! ## Words -/

/-- The word an FXU operation gives, none where it divides by zero and the spec fixes no word. -/
def FxResult.word? : FxResult → Option W64
  | .exact v => some v
  | .overflow v => some v
  | .divByZero => none

/-- `M` of 40_fxu_arith.md R115: the magnitude of n * 2^24 / d rounded half up, for d not 0. -/
def roundedQuotient (n d : Int) : Nat :=
  let q := n.natAbs * 2 ^ 24 / d.natAbs
  let r := n.natAbs * 2 ^ 24 - q * d.natAbs
  if 2 * r ≥ d.natAbs then q + 1 else q

/-- A magnitude with the sign that two operands give it, as the low 64 bits (40_fxu_arith.md R114, R115). -/
def withSigns (n d : Int) (magnitude : Nat) : W64 :=
  if (n < 0) ≠ (d < 0) then -BitVec.ofNat 64 magnitude else BitVec.ofNat 64 magnitude

/-- OV in FXU_STATUS if the test holds. -/
def ovIf (p : Prop) [Decidable p] : W32 := if p then 4 else 0

/-- DZ in FXU_STATUS. -/
def dzBit : W32 := 2

/-- The truth value of a comparison as the raw integer 0 or 1 (42_fxu_select_compare.md R162). -/
def rawTruth (p : Prop) [Decidable p] : W64 := if p then 1 else 0

/-- `TOINT(MUL(x, FX(1000)))`: CONV_KHZ of a clock, or a watermark in ns (46_bwe_bwcalcs.md R268, R264). -/
def timesThousand (x : W64) : Option W64 := (Fx.mul x (Fx.ofInteger 1000)).word?.bind fun y => (Fx.toInt y).word?

/-! ## Registers -/

/-- A source register holds a value (43_fxu_move.md R184, 70_reset_and_hazards.md R311). -/
def State.holdsValue (s : State) (r : Reg) : Prop := s.fr[r].written = true

/-- The raw word -2^63, whose magnitude does not fit a word (00_scope.md R10). -/
def mostNegative : W64 := 0x8000000000000000

/-! ## Records -/

/-- Slots 0 to count-1 of the record at `base` all hold a value. -/
def Memory.slotsWritten (m : Memory) (base count : Nat) : Prop := ∀ k, k < count → (m.slot (base + 8 * k)).isSome

/-- The fields of DCEIP and VBIOS that the CALC rules read all hold a value (70_reset_and_hazards.md R313 step 2). -/
def capabilitiesWritten (m : Memory) : Prop := m.slotsWritten 0x1000 19 ∧ m.slotsWritten 0x1800 15

/-- Slot k of MODE, read as 0 where it holds no value. -/
def modeSlot (m : Memory) (k : Nat) : W64 := (m.slot (0x2000 + 8 * k)).getD 0

/-- `n`, MODE.number_of_displays. -/
def modeCount (m : Memory) : Nat := (modeSlot m 0).toNat

/-! ## MODE slot by slot (10_state.md R33; 45_bwe_calculate.md R200; 70_reset_and_hazards.md R313): `raw k` is slot k -/

/-- Some display u < min(n, 2) uses the underlay: d0_underlay_mode is slot 4, d1_underlay_mode slot 5, ul_none code 0. -/
def UsesUnderlay (raw : Nat → W64) (n : Nat) : Prop := (1 ≤ n ∧ raw 4 ≠ 0) ∨ (2 ≤ n ∧ raw 5 ≠ 0)

/-- The write-back surface is used: writeback_enable is slot 3. -/
def UsesWriteback (raw : Nat → W64) (n : Nat) : Prop := 1 ≤ n ∧ raw 3 ≠ 0

/-- A number of taps: 1 to 16. -/
def LegalTaps (w : W64) : Prop := 1 ≤ w.toInt ∧ w.toInt ≤ 16

/-- The fields of display k, slots 16 + 16k to 30 + 16k, hold legal values. -/
structure LegalDisplay (raw : Nat → W64) (k : Nat) : Prop where
  positive : ∀ j, j < 6 → 0 < (raw (16 + 16 * k + j)).toInt
  hTaps : LegalTaps (raw (22 + 16 * k))
  vTaps : LegalTaps (raw (23 + 16 * k))
  bytesPerPixel : raw (24 + 16 * k) ∈ ([1, 2, 4, 8] : List W64)
  rotation : raw (25 + 16 * k) ∈ ([0, 90, 180, 270] : List W64)
  stereo : raw (26 + 16 * k) ∈ ([0, 1, 2] : List W64)
  tiling : raw (28 + 16 * k) ∈ ([0, 1] : List W64)

/-- The underlay fields, slots 112 to 120, hold legal values. -/
structure LegalUnderlay (raw : Nat → W64) : Prop where
  positive : ∀ k, 112 ≤ k → k ≤ 115 → 0 < (raw k).toInt
  hTaps : LegalTaps (raw 116)
  vTaps : LegalTaps (raw 117)
  rotation : raw 118 ∈ ([0, 90, 180, 270] : List W64)
  tiling : raw 119 ∈ ([0, 1] : List W64)

/-- The write-back fields, slots 128 to 135, hold legal values. -/
structure LegalWriteback (raw : Nat → W64) : Prop where
  positive : ∀ k, 128 ≤ k → k ≤ 131 → 0 < (raw k).toInt
  hTaps : LegalTaps (raw 132)
  vTaps : LegalTaps (raw 133)
  bytesPerPixel : raw 134 ∈ ([1, 2, 4, 8] : List W64)
  tiling : raw 135 ∈ ([0, 1] : List W64)

/-- MODE_LEGAL of R200, slot by slot, as far as the model reads it (log entry 9). Every value of a BOOL is legal (R30). -/
structure LegalMode (raw : Nat → W64) : Prop where
  count : (raw 0).toNat ≤ 6
  global : ∀ k ∈ [1, 2, 4, 5], raw k ∈ ([0, 1, 2] : List W64)
  display : ∀ k, k < (raw 0).toNat → LegalDisplay raw k
  underlay : UsesUnderlay raw (raw 0).toNat → LegalUnderlay raw
  writeback : UsesWriteback raw (raw 0).toNat → LegalWriteback raw

/-- The slots of MODE, besides slot 0, that a command with n displays needs (R313 step 3; log entry 3). -/
def NeededModeSlot (raw : Nat → W64) (n k : Nat) : Prop :=
  (1 ≤ k ∧ k ≤ 5) ∨ (∃ d, d < n ∧ 16 + 16 * d ≤ k ∧ k ≤ 30 + 16 * d)
    ∨ (UsesUnderlay raw n ∧ 112 ≤ k ∧ k ≤ 120) ∨ (UsesWriteback raw n ∧ 128 ≤ k ∧ k ≤ 135)

/-- MODE holds every field that R313 step 3 asks for, with n in 0..6. -/
def modeWritten (m : Memory) : Prop :=
  (m.slot 0x2000).isSome ∧ modeCount m ≤ 6
    ∧ ∀ k, NeededModeSlot (modeSlot m) (modeCount m) k → (m.slot (0x2000 + 8 * k)).isSome

/-! ## The records field by field (10_state.md R31 to R35, R45) -/

/-- The check results of R45, each at the place of its code. -/
def checkNames : List CheckResult :=
  [.ok, .notok, .exceededMaximumBw, .exceededPageCloseOpen, .exceededPteQueue, .invalidRotationOrBppOrStereo,
   .hsrNotSupportedByTaps, .vsrNotSupportedByTaps, .invalidLinearOrStereoMode]

/-- The voltages of R45. -/
def voltageNames : List Voltage := [.low, .mid, .high, .highNoNbpStateChange, .notok, .notApplicable]

/-- The surface types of R45. -/
def surfaceTypeNames : List SurfaceType :=
  [.graphics, .underlay420Luma, .underlay420Chroma, .underlay422, .underlay444, .writebackLuma, .writebackChroma]

/-- The underlay formats of R45. -/
def underlayFormatNames : List UnderlayFormat := [.f420, .f422, .f444]

/-- The underlay modes of R45. -/
def underlayModeNames : List UnderlayMode := [.none, .underlayOnly, .blended]

/-- The stereo modes of R45. -/
def stereoNames : List StereoMode := [.mono, .sideBySide, .topBottom]

/-- The tiling modes of R45. -/
def tilingNames : List TilingMode := [.linear, .tiled]

/-- The panning modes of R45. -/
def panningNames : List Panning := [.none, .anyLines, .oddLines]

/-- The tiers of R45. -/
def tierNames : List Tier := [.low, .mid, .high]

/-- The code of a name: its place in the list of its kind. -/
def codeIn {α : Type} [DecidableEq α] (names : List α) (x : α) : W64 := BitVec.ofNat 64 (names.idxOf x)

/-- A BOOL as the BWE writes it (R30). -/
def boolWord (b : Bool) : W64 := if b then 1 else 0

/-- RESULTS slots 0 to 35, in order, six to a line. -/
def resultsScalars (r : Results) : List W64 :=
  [codeIn checkNames r.modeCheck, codeIn checkNames r.pipeCheck, codeIn checkNames r.hsrCheck,
    codeIn checkNames r.vsrCheck, codeIn checkNames r.lbSizeCheck, codeIn checkNames r.fbcCheck,
   codeIn checkNames r.rotationCheck, codeIn tierNames r.yClkLevel, codeIn tierNames r.sclkLevel, r.dispclk,
    r.dispclkRequiredWithoutRamping, r.dispclkRequiredWithRamping,
   r.requiredSclk, r.requiredYclk, codeIn voltageNames r.voltage, boolWord r.stateChangeEnable.nbp,
    boolWord r.stateChangeEnable.cpup, boolWord r.stateChangeEnable.cpuc,
   r.totalDmifDramBandwidth, r.totalMcifwrDramBandwidth, r.totalDmifSclkBandwidth, r.totalMcifwrSclkBandwidth,
    r.requiredDramBandwidthGbytePerSecond, codeIn checkNames r.pageCloseOpenCheck,
   codeIn checkNames r.maximumBwCheck, codeIn checkNames r.pteRequestCheck, r.dramAccessEfficiency,
    r.writeAccessEfficiency, r.averageBandwidthNoCompression, r.averageBandwidth,
   r.stutterEfficiency, r.immediateFlipLatency, r.worstCaseLatencyNonDisplay, BitVec.ofNat 64 r.numberOfEnabledGraphics,
    BitVec.ofNat 64 r.numberOfEnabledUnderlay, BitVec.ofNat 64 r.numberOfEnabledWriteback]

/-- RESULTS slots 90 to 99, in order. -/
def resultsAvailable (r : Results) : List W64 :=
  [r.availableDramBandwidth.low, r.availableDramBandwidth.mid, r.availableDramBandwidth.high,
   r.availableSclkBandwidth.low, r.availableSclkBandwidth.mid, r.availableSclkBandwidth.high,
   r.dispclkReqPixelThroughput, r.dispclkReqScalerThroughput, r.dispclkReqReadRequestThroughput,
   BitVec.ofNat 64 r.dispclkVoltageTier]

/-- The per-surface arrays 0 to 35 of one slot, in order, six to a line. -/
def surfaceFields (s : Surface) : List W64 :=
  [boolWord s.cls.enable, codeIn surfaceTypeNames s.cls.surfaceType, boolWord s.cls.useAlpha, s.cls.bytesPerPixel,
    s.geo.sourceWidth, s.geo.sourceHeight,
   s.geo.hsr, s.geo.vsr, s.geo.hTaps, s.geo.vTaps, s.geo.rotationAngle, codeIn stereoNames s.geo.stereoMode,
   boolWord s.geo.interlace, codeIn tilingNames s.geo.tilingMode, boolWord s.geo.orthogonalRotation,
    s.geo.widthRoundedUpToChunks, s.lbPartitions, s.req.bytesPerRequest,
   s.req.usefulBytesPerRequest, s.req.linesInterleaved, s.req.latencyHidingLines, s.bw.vFilterInit,
    boolWord s.bw.lbPrefetchEligible, s.bw.linesInPerLineOutBeginning,
   s.bw.linesInPerLineOutMiddle, s.bw.requestBandwidth, s.bw.displayBandwidth, s.buf.dataBufferSize,
    s.buf.outstandingChunkRequestLimit, s.buf.outstandingPteRequestLimit,
   s.wm.lineSourceTransferTime, s.wm.urgent, s.wm.stutterExit, s.wm.nbpStateChange,
    boolWord s.geo.scatterGatherEnable, BitVec.ofNat 64 s.cls.displayIndex]

/-- X of the grid layout: 0 nbp, 1 cpup, 2 cpuc (R35). -/
def Capability.number : Capability → Nat
  | .nbp => 0
  | .cpup => 1
  | .cpuc => 2

/-- Where each field of RESULTS stands (R35). The reserved scalars and arrays hold the extension fields of STAGE_FNS (R231). -/
structure ResultsLayout (r : Results) : Prop where
  scalars : ∀ k, k < 36 → r.slot k = (resultsScalars r).getD k 0
  margin : ∀ (X : Capability) (y s : Tier), r.slot (36 + 18 * X.number + 3 * y.rank + s.rank) = (r.cell X y s).margin
  dispclk : ∀ (X : Capability) (y s : Tier),
    r.slot (36 + 18 * X.number + 9 + 3 * y.rank + s.rank) = (r.cell X y s).dispclkRequired
  available : ∀ k, k < 10 → r.slot (90 + k) = (resultsAvailable r).getD k 0
  reserved : ∀ k, 100 ≤ k → k < 128 → r.slot k = extSlot r.ext k
  arrays : ∀ (i : Slot) (j : Nat), j < 36 → r.slot (128 + 16 * j + i.val) = (surfaceFields r.surfaces[i]).getD j 0
  extension : ∀ (i : Slot) (j : Nat), 36 ≤ j → j < 120 →
    r.slot (128 + 16 * j + i.val) = extSlot r.ext (128 + 16 * j + i.val)
  unused : ∀ i j : Nat, 12 ≤ i → i < 16 → j < 120 → r.slot (128 + 16 * j + i) = 0

/-- The slots from `a` on hold these words. -/
def HoldsWords (m : Memory) (a : Nat) (ws : List W64) : Prop := ∀ k (h : k < ws.length), m.slot (a + 8 * k) = some ws[k]

/-- The slot at `a` holds the code of this name. -/
def HoldsCode {α : Type} (m : Memory) (a : Nat) (names : List α) (x : α) : Prop :=
  ∃ w, m.slot a = some w ∧ names[w.toNat]? = some x

/-- The slot at `a` holds this BOOL: 0 is false, any other value true (R30). -/
def HoldsBool (m : Memory) (a : Nat) (b : Bool) : Prop := ∃ w, m.slot a = some w ∧ (b = true ↔ w ≠ 0)

/-- DCEIP read as `d` (R31): slots 0 to 15, 16, 17 and 18, and the reserved slots 19 to 255, each none while it holds no value. -/
structure DceipLayout (m : Memory) (d : Dceip) : Prop where
  words : HoldsWords m 0x1000
    [d.numberOfGraphicsPipes, d.numberOfUnderlayPipes, d.numberOfWritebackPipes, d.lbSizeGraphics, d.lbSizeUnderlay420Luma,
     d.lbSizeUnderlay420Chroma, d.lbSizeUnderlay422, d.lbSizeUnderlay444, d.vscalerEfficiency.1, d.vscalerEfficiency.2.1,
     d.vscalerEfficiency.2.2.1, d.vscalerEfficiency.2.2.2, d.chunkWidth, d.pteRequestQueueSize, d.scatterGatherLimit,
     d.dispclkRampingFactor]
  predownscaler : HoldsBool m (0x1000 + 8 * 16) d.predownscalerCapable
  buffers : HoldsWords m (0x1000 + 8 * 17) [d.globalRequestBufferSize, d.singleDisplayGraphicsBufferFactor]
  reserved : d.ext = (List.range 237).map fun j => m.slot (0x1000 + 8 * (19 + j))

/-- VBIOS read as `v` (R32): slots 0 to 14, and the reserved slots 15 to 255. -/
structure VbiosLayout (m : Memory) (v : Vbios) : Prop where
  words : HoldsWords m 0x1800
    [v.sclk.low, v.sclk.mid, v.sclk.high, v.yclk.low, v.yclk.mid, v.yclk.high, v.maxDispclk.low, v.maxDispclk.mid,
     v.maxDispclk.high, v.numberOfDramChannels, v.dramChannelWidthInBits, v.urgentLatency, v.nbpStateChangeLatency,
     v.selfRefreshExitLatency, v.blackoutDuration]
  reserved : v.ext = (List.range 241).map fun j => m.slot (0x1800 + 8 * (15 + j))

/-- The fields of a display read from the slot at `a` on (R33, j = 0 to 14). -/
structure DisplayLayout (m : Memory) (a : Nat) (d : Display) : Prop where
  words : HoldsWords m a
    [d.hTotal, d.pixelRate, d.srcWidth, d.srcHeight, d.hsr, d.vsr, d.hTaps, d.vTaps, d.bytesPerPixel, d.rotationAngle]
  stereo : HoldsCode m (a + 8 * 10) stereoNames d.stereoMode
  interlace : HoldsBool m (a + 8 * 11) d.interlace
  tiling : HoldsCode m (a + 8 * 12) tilingNames d.tilingMode
  fbc : HoldsBool m (a + 8 * 13) d.fbcEnable
  scatterGather : HoldsBool m (a + 8 * 14) d.scatterGatherEnable

/-- The underlay fields (R33, slots 112 to 120). -/
structure UnderlayLayout (m : Memory) (u : Underlay) : Prop where
  words : HoldsWords m (0x2000 + 8 * 112) [u.srcWidth, u.srcHeight, u.hsr, u.vsr, u.hTaps, u.vTaps, u.rotationAngle]
  tiling : HoldsCode m (0x2000 + 8 * 119) tilingNames u.tilingMode
  scatterGather : HoldsBool m (0x2000 + 8 * 120) u.scatterGatherEnable

/-- The write-back fields (R33, slots 128 to 135). -/
structure WritebackLayout (m : Memory) (w : Writeback) : Prop where
  words : HoldsWords m (0x2000 + 8 * 128) [w.srcWidth, w.srcHeight, w.hsr, w.vsr, w.hTaps, w.vTaps, w.bytesPerPixel]
  tiling : HoldsCode m (0x2000 + 8 * 135) tilingNames w.tilingMode

/-- MODE read as `mode` (R33, R34): the fields of the displays below n, and those of a shared surface that is used. -/
structure ModeLayout (m : Memory) (mode : Mode) : Prop where
  count : m.slot 0x2000 = some (BitVec.ofNat 64 mode.n)
  format : HoldsCode m 0x2008 underlayFormatNames mode.underlayFormat
  panning : HoldsCode m 0x2010 panningNames mode.panning
  writebackEnable : HoldsBool m 0x2018 mode.writebackEnable
  underlayMode : ∀ u, u < 2 → HoldsCode m (0x2020 + 8 * u) underlayModeNames (mode.underlayMode u)
  displays : ∀ k, k < mode.n → DisplayLayout m (0x2000 + 8 * (16 + 16 * k)) (mode.display k)
  underlay : ∀ u, u < mode.n → mode.underlayMode u ≠ .none → UnderlayLayout m mode.underlay
  writeback : 1 ≤ mode.n → mode.writebackEnable = true → WritebackLayout m mode.writeback

/-! ## What a CALC_CORE reads and leaves -/

/-- MODE as typed data. -/
def modeOf (m : Memory) : Mode := modeOfSlots (modeSlot m)

/-- What a CALC_CORE of these records reads. -/
def envOf (m : Memory) : CalcEnv := calcEnv m (modeOf m)

/-- MODE is written and legal, and DCEIP and VBIOS are written: CALC and BWCALCS have their own effect. -/
structure CalcReady (m : Memory) : Prop where
  mode : modeWritten m
  legal : LegalMode (modeSlot m)
  capabilities : capabilitiesWritten m

/-- The number of a pass, 0 to 3 (46_bwe_bwcalcs.md R263). -/
def Pass.index : Pass → Nat
  | .a => 0
  | .b => 1
  | .c => 2
  | .d => 3

/-- The graphics slot of display pipe q (45_bwe_calculate.md R201). -/
def graphicsSlot (q : Fin 6) : Slot := ⟨4 + q.val, by omega⟩

/-- The RESULTS that a CALC_CORE with these inputs leaves, from this value of the counter of free values. -/
def resultsOf (env : CalcEnv) (draws : Nat) : Results := (calcCore env (CalcState.start draws)).2.results

/-! ## Finished calculations, in the terms of the rules of 45_bwe_calculate.md -/

/-- `v` is an answer of a stage formula: what a call of it gives, for some contents of the extension fields and some free values
(R231, R235). -/
def Answers (env : CalcEnv) (f : Config.Ext → Config.StageProgram) (v : W64) : Prop := ∃ c, (callStage env f c).1 = v

/-- What each role of a surface takes: graphics, underlay or write-back (R207). -/
def SurfaceType.pick {α : Type} (t : SurfaceType) (graphics underlay writeback : α) : α :=
  match t with
  | .graphics => graphics
  | .writebackLuma => writeback
  | .writebackChroma => writeback
  | _ => underlay

/-- The enabled surfaces, in slot order (R202). -/
def Results.enabledSurfaces (r : Results) : List Surface :=
  (allSlots.filter fun i => r.surfaces[i].cls.enable).map fun i => r.surfaces[i]

/-- A sum by ADD from 0, each ADD as it wraps (40_fxu_arith.md R110). -/
def wrappedSum (ws : List W64) : W64 := ws.foldl (· + ·) 0

/-- RESULTS as the metric of R230 with this number, 0 to 6, finds it: the extension fields as they then stand, and that metric and
the later ones still 0. -/
def Results.beforeMetric (r : Results) (number : Nat) (ext : List (Nat × W64)) : Results :=
  { r with
    ext := ext
    dramAccessEfficiency := if number ≤ 0 then 0 else r.dramAccessEfficiency
    writeAccessEfficiency := if number ≤ 1 then 0 else r.writeAccessEfficiency
    averageBandwidthNoCompression := if number ≤ 2 then 0 else r.averageBandwidthNoCompression
    averageBandwidth := if number ≤ 3 then 0 else r.averageBandwidth
    stutterEfficiency := if number ≤ 4 then 0 else r.stutterEfficiency
    immediateFlipLatency := if number ≤ 5 then 0 else r.immediateFlipLatency
    worstCaseLatencyNonDisplay := if number ≤ 6 then 0 else r.worstCaseLatencyNonDisplay }

/-- total_dram of R224. -/
def Results.totalDram (r : Results) : W64 := r.totalDmifDramBandwidth + r.totalMcifwrDramBandwidth

/-- total_sclk of R224. -/
def Results.totalSclk (r : Results) : W64 := r.totalDmifSclkBandwidth + r.totalMcifwrSclkBandwidth

/-- LAT_X of R225. -/
def latencyOf (v : Vbios) : Capability → W64
  | .nbp => v.nbpStateChangeLatency
  | .cpup => v.blackoutDuration
  | .cpuc => v.selfRefreshExitLatency

/-- feasible_X(y, s) of R225. -/
def Feasible (v : Vbios) (r : Results) (X : Capability) (y s : Tier) : Prop :=
  0 ≤ (r.cell X y s).margin.toInt ∧ (r.cell X y s).dispclkRequired.toInt ≤ v.maxDispclk.high.toInt

/-- ymin of R226. -/
def lowestYclk (r : Results) : Nat := if r.stateChangeEnable.nbp then 0 else 2

/-- smin of R226. -/
def lowestSclk (r : Results) : Nat := if r.stateChangeEnable.cpup ∧ r.stateChangeEnable.cpuc then 0 else 2

/-- A yclk tier that R226 may choose. -/
def YclkFits (v : Vbios) (r : Results) (totalDram : W64) (y : Tier) : Prop :=
  lowestYclk r ≤ y.rank ∧ totalDram.toInt ≤ (r.availableDramBandwidth.get y).toInt
    ∧ ∀ X, r.stateChangeEnable.get X = true → ∃ s : Tier, lowestSclk r ≤ s.rank ∧ Feasible v r X y s

/-- An sclk tier that R226 may choose beside the yclk tier y. -/
def SclkFits (v : Vbios) (r : Results) (totalSclk : W64) (y s : Tier) : Prop :=
  lowestSclk r ≤ s.rank ∧ totalSclk.toInt ≤ (r.availableSclkBandwidth.get s).toInt
    ∧ ∀ X, r.stateChangeEnable.get X = true → Feasible v r X y s

/-- The words of which R227 takes the MAX: the three throughput requirements and, for each enabled capability, its dispclk
requirement at the selected tiers. -/
def dispclkRequirements (r : Results) : List W64 :=
  [r.dispclkReqPixelThroughput, r.dispclkReqScalerThroughput, r.dispclkReqReadRequestThroughput]
    ++ ([Capability.nbp, .cpup, .cpuc].filter fun X => r.stateChangeEnable.get X).map
      fun X => (r.cell X r.yClkLevel r.sclkLevel).dispclkRequired

/-! ## Capability tables and scenario A (44_bwe_init.md R192; 95_test_vectors.md P5) -/

/-- DCEIP and VBIOS hold what INIT loads for CARRIZO, and MODE the fields that P5 writes. -/
structure ScenarioAReady (m : Memory) : Prop where
  dceip : ∀ k, k < 256 → m.slot (0x1000 + 8 * k) = some (capDceipSlot 1 false k)
  vbios : ∀ k, k < 256 → m.slot (0x1800 + 8 * k) = some (capVbiosSlot 1 k)
  global : ∀ k, k < 6 → m.slot (0x2000 + 8 * k) = some (scenarioAMode k)
  display : ∀ k, 16 ≤ k → k < 31 → m.slot (0x2000 + 8 * k) = some (scenarioAMode k)

/-! ## The invariant -/

/-- What holds of every state the machine reaches: the record memory is in canonical form and lies inside the records;
the reserved bits of the status and version registers read as zero (10_state.md R24, R26, R27); BWE_VERSION is zero until
an INIT, and its STONEY is set only for CARRIZO; RES_VALID and OUT_VALID say what has been written
(70_reset_and_hazards.md R311). -/
structure Inv (s : State) : Prop where
  memWf : s.mem.wf
  memInRecords : ∀ c ∈ s.mem, inRecord c.1 = true
  fxuReserved : s.fxuStatus &&& ~~~fxuStickyBits = 0
  bweReserved : s.bweStatus &&& ~~~bweStatusBits = 0
  versionReserved : s.bweVersion &&& ~~~(0x3F : W32) = 0
  versionLoaded : bitSet s.bweVersion 0x20 = false → s.bweVersion = 0
  versionStoney : bitSet s.bweVersion 0x10 = true → s.bweVersion &&& 0xF = 1
  resultsWritten : bitSet s.bweStatus resValidBit = true → s.mem.slotsWritten resultsBase 2048
  outputWritten : bitSet s.bweStatus outValidBit = true →
    ∀ k, k < 80 → k ≠ 7 → (s.mem.slot (slotOffset outputBase k)).isSome

/-! ## Runs (70_reset_and_hazards.md R319) -/

/-- The state after a number of steps, none once the machine has stopped. -/
def runSteps : Nat → State → Option State
  | 0, s => some s
  | n + 1, s =>
    match step s with
    | .next t => runSteps n t
    | .fault _ => none
    | .refused _ => none

/-- A state supports claims about values: no sticky condition is set and no command has read an FR register that held no
value (R319, R311). R319 withdraws the claims about the values that a condition concerns and does not say which those are: here
any sticky bit of either unit, ILL included, withdraws every claim (DESIGN CHOICE, log entry 23). -/
def State.supportsClaims (s : State) : Bool :=
  s.fxuStatus &&& fxuStickyBits == 0 && s.bweStatus &&& bweStickyBits == 0 && !s.launchFault

/-- The run of the host's accesses from reset completes and supports claims (R319). -/
def safeRun (events : List HostEvent) : Bool :=
  match runSteps events.length { State.reset with pending := events } with
  | some s => s.supportsClaims
  | none => false

end Sys2Proof.Machine
end

