-- ==== Sys2Proof/Certificates/Slice0/Obligations.lean ====
section
/-!
DEFINITION. The statements for the provers. Each docstring names the rule of spec/ it formalises; a statement that rests
on a choice of the model says so and names the log entry. A parameter the spec leaves OPEN is a variable of the
statement or an opaque constant, so that a statement holds for every implementation.
-/

open Sys2Proof Sys2Proof.Machine

/-! ## Decoding (30_encoding.md) -/

/-- R91, R94, R100: every command, with every operand at every value its fields admit, is what its word decodes to. -/
def Obligations.DecodeEncode : Prop := ∀ i : Instr, decode i.unit (encode i) = .ok i

/-- R105: a word that decodes is the word of the command it decodes to, and of a command of that unit: no bit of a legal
word is dropped. -/
def Obligations.EncodeDecode : Prop := ∀ (u : CmdUnit) (w : W32) (i : Instr), decode u w = .ok i → i.unit = u ∧ encode i = w

/-- R94, R100, R105: a word is a command exactly when exactly one row of the opcode map matches it; a word that is no
command matches none. -/
def Obligations.LegalWordsMatchOneRow : Prop :=
  ∀ (u : CmdUnit) (w : W32),
    ((∃ i, decode u w = .ok i) ↔ ((opcodeRows u).filter fun r => r.matches w).length = 1)
      ∧ ((∃ e, decode u w = .error e) ↔ (opcodeRows u).filter (fun r => r.matches w) = [])

/-- The worked encodings of R94 and R100 decode to the commands they stand for. -/
def Obligations.WorkedEncodings : Prop :=
  decode .fxu 0x0448C000 = .ok (.add 1 2 3) ∧ decode .fxu 0x6140FFFF = .ok (.ldi 5 0xFFFF)
    ∧ decode .fxu 0x6C000000 = .ok .nop ∧ decode .bwe 0x00000011 = .ok (.bweInit 1 false)
    ∧ decode .bwe 0x00000111 = .ok (.bweInit 1 true) ∧ decode .bwe 0x00000003 = .ok .bweBwcalcs

/-! ## Issuing a command (20_memory.md R77; 70_reset_and_hazards.md R315) -/

/-- R77, R79, R315: the next access of the host being a write of a command's word to its command register, one step executes that
command and nothing else: from the state without that access, with no value given back and the counter of free values
(the model's own, log entry 4) moved on. -/
def Obligations.StepRunsDecoded : Prop :=
  ∀ (s : State) (rest : List HostEvent) (u : CmdUnit) (w : W32) (i : Instr),
    s.pending = w32 (commandOffset u) w :: rest → decode u w = .ok i →
      step s = exec i { s with pending := rest, response := none, draws := s.draws + 1 }

/-- R101, R104: a word that matches no row sets ILL of its unit and has no other effect. -/
def Obligations.IllegalWordOnlySetsIll : Prop :=
  ∀ (s : State) (rest : List HostEvent) (u : CmdUnit) (w : W32),
    s.pending = w32 (commandOffset u) w :: rest → (opcodeRows u).filter (fun r => r.matches w) = [] →
      ∃ t, step s = .next t
        ∧ t.fxuStatus = (match u with | .fxu => s.fxuStatus ||| 1 | .bwe => s.fxuStatus)
        ∧ t.bweStatus = (match u with | .fxu => s.bweStatus | .bwe => s.bweStatus ||| 2)
        ∧ (∀ r : Reg, t.fr[r] = s.fr[r]) ∧ t.bweVersion = s.bweVersion ∧ sameMemory s t ∧ t.pending = rest

/-! ## FXU arithmetic (40_fxu_arith.md) -/

/-- ADD and SUB (40_fxu_arith.md section 2, R110 and R111), also where a source register holds no value, where R109 and R311 ask for
a fault and completing is the model's choice (log entry 1). -/
def Obligations.AddSub : Prop :=
  ∀ (rd rs1 rs2 : Reg) (s : State),
    let a := (s.frValue rs1).toInt
    let b := (s.frValue rs2).toInt
    (∃ t, FxuExecutes (fxuWordR 0x01 rd rs1 rs2) (.add rd rs1 rs2) s t rd (BitVec.ofInt 64 (a + b))
        (ovIf (¬(-2 ^ 63 ≤ a + b ∧ a + b < 2 ^ 63))))
      ∧ ∃ t, FxuExecutes (fxuWordR 0x02 rd rs1 rs2) (.sub rd rs1 rs2) s t rd (BitVec.ofInt 64 (a - b))
        (ovIf (¬(-2 ^ 63 ≤ a - b ∧ a - b < 2 ^ 63)))

/-- NEG and ABS (40_fxu_arith.md section 3, R112 and R113), also where the source holds no value (the model's choice, log entry 1). -/
def Obligations.NegAbs : Prop :=
  ∀ (rd rs1 : Reg) (s : State),
    let a := (s.frValue rs1).toInt
    (∃ t, FxuExecutes (fxuWordR 0x06 rd rs1 0) (.neg rd rs1) s t rd (BitVec.ofInt 64 (-a)) (ovIf (a = -2 ^ 63)))
      ∧ ∃ t, FxuExecutes (fxuWordR 0x07 rd rs1 0) (.abs rd rs1) s t rd (BitVec.ofInt 64 a.natAbs) (ovIf (a = -2 ^ 63))

/-- MUL, in the terms of its rule (40_fxu_arith.md section 4, R114), also where a source holds no value (the model's choice, log
entry 1). -/
def Obligations.MulResult : Prop :=
  ∀ (rd rs1 rs2 : Reg) (s : State),
    let a := (s.frValue rs1).toInt
    let b := (s.frValue rs2).toInt
    let ai := a.natAbs >>> 24
    let af := a.natAbs &&& (2 ^ 24 - 1)
    let bi := b.natAbs >>> 24
    let bf := b.natAbs &&& (2 ^ 24 - 1)
    let p := af * bf
    let S := ai * bi * 2 ^ 24 + ai * bf + bi * af + (p >>> 24) + if p ≥ 2 ^ 23 then 1 else 0
    ∃ t, FxuExecutes (fxuWordR 0x03 rd rs1 rs2) (.mul rd rs1 rs2) s t rd (withSigns a b S)
      (ovIf (ai * bi ≥ 2 ^ 39 ∨ S > 2 ^ 63 - 1))

/-- DIV of raw words, MOD of unsigned words and FROMFRAC of integers (40_fxu_arith.md sections 5 and 6, 41_fxu_rounding.md section 2;
R115 to R117, R143); with a zero divisor each writes some value (a free one, log entry 4) and raises DZ alone. They complete also where
a source holds no value (the model's choice, log entry 1). -/
def Obligations.DivFromfracMod : Prop :=
  ∀ (rd rs1 rs2 : Reg) (s : State),
    let a := s.frValue rs1
    let b := s.frValue rs2
    let n := a.toInt
    let d := b.toInt
    (b ≠ 0 →
      (∃ t, FxuExecutes (fxuWordR 0x04 rd rs1 rs2) (.div rd rs1 rs2) s t rd (withSigns n d (roundedQuotient n d))
          (ovIf (roundedQuotient n d ≥ 2 ^ 63)))
        ∧ (∃ t, FxuExecutes (fxuWordR 0x0B rd rs1 rs2) (.fromfrac rd rs1 rs2) s t rd
          (withSigns n d (roundedQuotient n d)) (ovIf (roundedQuotient n d ≥ 2 ^ 63)))
        ∧ ∃ t, FxuExecutes (fxuWordR 0x05 rd rs1 rs2) (.mod rd rs1 rs2) s t rd (BitVec.ofNat 64 (a.toNat % b.toNat)) 0)
      ∧ (b = 0 →
        (∃ t v, FxuExecutes (fxuWordR 0x04 rd rs1 rs2) (.div rd rs1 rs2) s t rd v dzBit)
          ∧ (∃ t v, FxuExecutes (fxuWordR 0x0B rd rs1 rs2) (.fromfrac rd rs1 rs2) s t rd v dzBit)
          ∧ ∃ t v, FxuExecutes (fxuWordR 0x05 rd rs1 rs2) (.mod rd rs1 rs2) s t rd v dzBit)

/-! ## FXU rounding and conversion (41_fxu_rounding.md) -/

/-- FLOOR and CEIL (41_fxu_rounding.md section 1, R139 to R141); with a zero significance each writes some value (a free one,
log entry 4) and raises DZ alone. That CEIL follows R141's pseudocode where a corner case of the rule says otherwise
(significance -2^63 with a negative argument) is the model's reading (log entry 21). That both complete also where a source holds no
value is the model's choice (log entry 1). -/
def Obligations.FloorCeil : Prop :=
  ∀ (rd rs1 rs2 : Reg) (s : State),
    let a := (s.frValue rs1).toInt
    let q := (s.frValue rs2).toInt.natAbs
    let m := a.tdiv (BitVec.ofNat 64 q).toInt
    let r := BitVec.ofInt 64 (q * m)
    let e : Int := if a < 0 then r.toInt - q else r.toInt + q
    (q ≠ 0 →
      (∃ t, FxuExecutes (fxuWordR 0x08 rd rs1 rs2) (.floor rd rs1 rs2) s t rd r 0)
        ∧ ∃ t, FxuExecutes (fxuWordR 0x09 rd rs1 rs2) (.ceil rd rs1 rs2) s t rd
          (if r.toInt.natAbs < a.natAbs then BitVec.ofInt 64 e else r)
          (ovIf (r.toInt.natAbs < a.natAbs ∧ ¬(-2 ^ 63 ≤ e ∧ e < 2 ^ 63))))
      ∧ (q = 0 →
        (∃ t v, FxuExecutes (fxuWordR 0x08 rd rs1 rs2) (.floor rd rs1 rs2) s t rd v dzBit)
          ∧ ∃ t v, FxuExecutes (fxuWordR 0x09 rd rs1 rs2) (.ceil rd rs1 rs2) s t rd v dzBit)

/-- R140, R141 (corner cases): FLOOR gives the largest multiple of the quantum not above the argument in magnitude, CEIL,
when it raises no OV, the smallest not below it, both with the argument's sign; CEIL raises OV exactly when that multiple
does not fit a word (the model's reading of R141, log entry 21). -/
def Obligations.FloorCeilAreMultiples : Prop :=
  ∀ (a q : W64), q ≠ 0 →
    let A := a.toInt.natAbs
    let Q := q.toInt.natAbs
    (∀ r, Fx.floor a q = .exact r → r.toInt = a.toInt.sign * ((A / Q * Q : Nat) : Int))
      ∧ (∀ r, Fx.ceil a q = .exact r → r.toInt = a.toInt.sign * (((A + Q - 1) / Q * Q : Nat) : Int))
      ∧ (∃ r, Fx.floor a q = .exact r)
      ∧ ((∃ r, Fx.ceil a q = .overflow r) ↔ ¬(-2 ^ 63 ≤ a.toInt.sign * (((A + Q - 1) / Q * Q : Nat) : Int)
          ∧ a.toInt.sign * (((A + Q - 1) / Q * Q : Nat) : Int) < 2 ^ 63))

/-- FROMINT and TOINT (41_fxu_rounding.md section 2, R142 and R144), also where the source holds no value (the model's choice, log
entry 1). -/
def Obligations.FromintToint : Prop :=
  ∀ (rd rs1 : Reg) (s : State),
    let v := (s.frValue rs1).toInt
    let i := v >>> 24
    (∃ t, FxuExecutes (fxuWordR 0x0A rd rs1 0) (.fromint rd rs1) s t rd (BitVec.ofInt 64 (v * 2 ^ 24))
        (ovIf (¬(-2 ^ 39 < v ∧ v < 2 ^ 39 - 1))))
      ∧ ∃ t, FxuExecutes (fxuWordR 0x0C rd rs1 0) (.toint rd rs1) s t rd (BitVec.ofInt 64 (i.bmod (2 ^ 32)))
        (ovIf (¬(-2 ^ 31 ≤ i ∧ i < 2 ^ 31)))

/-- The round trip through fraction construction, which R145 infers from R114, R142, R143 and R144: for the two D of the rule and every raw word below 2^31 in
magnitude for which no step raises OV. -/
def Obligations.RoundTrip : Prop :=
  ∀ (a d fd p i : W64), (d = 16777216 ∨ d = 33554433) → a.toInt.natAbs < 2 ^ 31 →
    Fx.fromInt d = .exact fd → Fx.mul a fd = .exact p → Fx.toInt p = .exact i → Fx.fromFrac i d = .exact a

/-! ## FXU laws (40_fxu_arith.md R115, R118) -/

/-- The laws that R118 infers from R110 to R117, SUB, NEG, MUL and DIV; MUL is not associative, and MUL(DIV(1.0, 3.0), 3.0) is one raw unit below
1.0. (The raw word of FX(n) fits for n between -2^39 and 2^39.) -/
def Obligations.FxuLaws : Prop :=
  (∀ a b, Fx.add a b = Fx.add b a) ∧ (∀ a b, Fx.mul a b = Fx.mul b a)
    ∧ (∀ a b c ab bc l r, Fx.add a b = .exact ab → Fx.add ab c = .exact l → Fx.add b c = .exact bc →
        Fx.add a bc = .exact r → l = r)
    ∧ (∀ a b nb x y, Fx.sub a b = .exact x → Fx.neg b = .exact nb → Fx.add a nb = .exact y → x = y)
    ∧ (∀ a b x, a ≠ mostNegative → Fx.mul a b = .exact x → Fx.mul (-a) b = .exact (-x))
    ∧ (∀ a b x, a ≠ mostNegative → b ≠ mostNegative → Fx.div a b = .exact x →
        Fx.div (-a) b = .exact (-x) ∧ Fx.div a (-b) = .exact (-x))
    ∧ (∀ (a : W64) (n : Int) (x : W64), -2 ^ 39 < n → n < 2 ^ 39 → Fx.mul a (Fx.ofInteger n) = .exact x →
        x.toInt = a.toInt * n)
    ∧ (∀ n m : Int, -2 ^ 39 < n → n < 2 ^ 39 → -2 ^ 39 < m → m < 2 ^ 39 →
        Fx.div (Fx.ofInteger n) (Fx.ofInteger m) = Fx.frac (BitVec.ofInt 64 n) (BitVec.ofInt 64 m))
    ∧ (∃ a b c ab bc l r, Fx.mul a b = .exact ab ∧ Fx.mul ab c = .exact l ∧ Fx.mul b c = .exact bc
        ∧ Fx.mul a bc = .exact r ∧ l ≠ r)
    ∧ Fx.div 0x1000000 0x3000000 = .exact 0x555555 ∧ Fx.mul 0x555555 0x3000000 = .exact 0xFFFFFF

/-- R115: FRAC gives the raw word nearest to n / d, and of two equally near the one away from zero. -/
def Obligations.FracIsNearest : Prop :=
  ∀ (n d v : W64), Fx.frac n d = .exact v →
    2 * (v.toInt * d.toInt - n.toInt * 2 ^ 24).natAbs ≤ d.toInt.natAbs
      ∧ (2 * (v.toInt * d.toInt - n.toInt * 2 ^ 24).natAbs = d.toInt.natAbs →
          n.toInt.natAbs * 2 ^ 24 < v.toInt.natAbs * d.toInt.natAbs)

/-! ## FXU selection and comparison (42_fxu_select_compare.md) -/

/-- MIN and MAX (42_fxu_select_compare.md section 2, R160 and R161), also where a source holds no value (the model's choice, log
entry 1). -/
def Obligations.MinMax : Prop :=
  ∀ (rd rs1 rs2 : Reg) (s : State),
    let a := s.frValue rs1
    let b := s.frValue rs2
    (∃ t, FxuExecutes (fxuWordR 0x0D rd rs1 rs2) (.min rd rs1 rs2) s t rd (if a.toInt ≤ b.toInt then a else b) 0)
      ∧ ∃ t, FxuExecutes (fxuWordR 0x0E rd rs1 rs2) (.max rd rs1 rs2) s t rd (if b.toInt ≤ a.toInt then a else b) 0

/-- The six comparisons order the raw words as signed integers and write the raw integer 0 or 1 (42_fxu_select_compare.md section 3,
R162 to R167), also where a source holds no value (the model's choice, log entry 1). -/
def Obligations.Compares : Prop :=
  ∀ (rd rs1 rs2 : Reg) (s : State),
    let a := (s.frValue rs1).toInt
    let b := (s.frValue rs2).toInt
    (∃ t, FxuExecutes (fxuWordR 0x10 rd rs1 rs2) (.clt rd rs1 rs2) s t rd (rawTruth (a < b)) 0)
      ∧ (∃ t, FxuExecutes (fxuWordR 0x11 rd rs1 rs2) (.cle rd rs1 rs2) s t rd (rawTruth (a ≤ b)) 0)
      ∧ (∃ t, FxuExecutes (fxuWordR 0x12 rd rs1 rs2) (.ceq rd rs1 rs2) s t rd (rawTruth (a = b)) 0)
      ∧ (∃ t, FxuExecutes (fxuWordR 0x13 rd rs1 rs2) (.cne rd rs1 rs2) s t rd (rawTruth (a ≠ b)) 0)
      ∧ (∃ t, FxuExecutes (fxuWordR 0x14 rd rs1 rs2) (.cgt rd rs1 rs2) s t rd (rawTruth (a > b)) 0)
      ∧ ∃ t, FxuExecutes (fxuWordR 0x15 rd rs1 rs2) (.cge rd rs1 rs2) s t rd (rawTruth (a ≥ b)) 0

/-! ## FXU moves (43_fxu_move.md) -/

/-- LDI and LDIH (43_fxu_move.md, R180 and R181). LDIH reads rd, and R181 says that rd must have been written since reset; that LDIH
completes where it has not been is the model's choice (log entry 1). -/
def Obligations.LdiLdih : Prop :=
  ∀ (rd : Reg) (imm16 : BitVec 16) (s : State),
    (∃ t, FxuExecutes (fxuWordI 0x18 rd imm16) (.ldi rd imm16) s t rd (BitVec.ofInt 64 imm16.toInt) 0)
      ∧ ∃ t, FxuExecutes (fxuWordI 0x19 rd imm16) (.ldih rd imm16) s t rd
        ((s.frValue rd <<< 16) ||| imm16.zeroExtend 64) 0

/-- MOV copies a register's 64 bits; NOP and BWE.NOP have no effect (43_fxu_move.md, R182 and R183; 30_encoding.md section 3, R103).
R182 requires MOV's source to have been written; that MOV completes where it has not been is the model's choice (log entry 1). -/
def Obligations.MovNop : Prop :=
  (∀ (rd rs1 : Reg) (s : State),
      ∃ t, FxuExecutes (fxuWordR 0x1A rd rs1 0) (.mov rd rs1) s t rd (s.frValue rs1) 0)
    ∧ (OnlyWord .fxu 0x6C000000 .nop ∧ ∀ s, exec .nop s = .next s)
    ∧ OnlyWord .bwe 0x00000000 .bweNop ∧ ∀ s, exec .bweNop s = .next s

/-- 30_encoding.md R107 (the expansion of LI64 is the rule's inference from R180 and R181): what the expansion of each pseudo-instruction does, under its condition. -/
def Obligations.PseudoInstructions : Prop :=
  ∀ (rd : Reg) (s : State),
    (∀ v : Int, -32768 ≤ v → v ≤ 32767 → ∃ t, runInstrs (expand (.li64Short rd v)) s = some t
        ∧ FxuWrites s t rd (BitVec.ofInt 64 v) 0)
      ∧ (∀ v : W64, ∃ t, runInstrs (expand (.li64 rd v)) s = some t ∧ FxuWrites s t rd v 0)
      ∧ (∀ n : Int, -32768 ≤ n → n ≤ 32767 → ∃ t, runInstrs (expand (.lfxShort rd n)) s = some t
        ∧ FxuWrites s t rd (BitVec.ofInt 64 (n * 2 ^ 24)) 0)
      ∧ (∀ n : W64, ∃ t, runInstrs (expand (.lfx rd n)) s = some t
        ∧ FxuWrites s t rd (BitVec.ofInt 64 (n.toInt * 2 ^ 24)) (ovIf (¬(-2 ^ 39 < n.toInt ∧ n.toInt < 2 ^ 39 - 1))))
      ∧ (∀ (p q : W64) (ft : Reg), ft ≠ rd → q ≠ 0 → ∃ t, runInstrs (expand (.lfrac rd p q ft)) s = some t
        ∧ t.frValue rd = withSigns p.toInt q.toInt (roundedQuotient p.toInt q.toInt) ∧ t.frValue ft = q
        ∧ (∀ r : Reg, r ≠ rd → r ≠ ft → t.fr[r] = s.fr[r])
        ∧ t.fxuStatus = s.fxuStatus ||| ovIf (roundedQuotient p.toInt q.toInt ≥ 2 ^ 63) ∧ FxuFrame s t)
      ∧ (∃ t, runInstrs (expand (.clr rd)) s = some t ∧ FxuWrites s t rd 0 0)
      ∧ ∀ rs1 rs2, expand (.cmtn rd rs1 rs2) = [.cgt rd rs1 rs2] ∧ expand (.cgtn rd rs1 rs2) = [.cge rd rs1 rs2]

/-! ## What holds of all commands -/

/-- The model's mark of the launch fault of 70_reset_and_hazards.md R311 (log entry 1): a command sets it exactly when a
register it reads holds no value. -/
def Obligations.UnwrittenSourcesAreMarked : Prop :=
  ∀ (i : Instr) (s t : State), exec i s = .next t →
    t.launchFault = (s.launchFault || (sourcesOf i).any fun r => !s.fr[r].written)

/-- 60_exceptions.md R296: no FXU command reads or writes a record, BWE_STATUS or BWE_VERSION, and no BWE command reads or
writes FR0 to FR15 or FXU_STATUS: whatever the other unit's state is, a command does the same to its own and leaves the
other's. -/
def Obligations.UnitsShareNothing : Prop :=
  ∀ (i : Instr) (s t : State), exec i s = .next t →
    (i.unit = .fxu → ∀ (m : Memory) (status version : W32),
        exec i { s with mem := m, bweStatus := status, bweVersion := version }
          = .next { t with mem := m, bweStatus := status, bweVersion := version })
      ∧ (i.unit = .bwe → ∀ (fr : Vector FReg 16) (status : W32),
        exec i { s with fr := fr, fxuStatus := status } = .next { t with fr := fr, fxuStatus := status })

/-- 10_state.md R29, 60_exceptions.md R294: a sticky bit that is set stays set through every step but a reset and a host
write to its own status register. -/
def Obligations.StickyBitsStay : Prop :=
  ∀ (s t : State) (e : HostEvent) (rest : List HostEvent), s.pending = e :: rest → e ≠ .reset → step s = .next t →
    ((∀ a v, e = .write a v → a.offset ≠ 0x008) → s.fxuStatus &&& fxuStickyBits &&& ~~~t.fxuStatus = 0)
      ∧ ((∀ a v, e = .write a v → a.offset ≠ 0x010) → s.bweStatus &&& bweStickyBits &&& ~~~t.bweStatus = 0)

/-- 44_bwe_init.md R195: no command other than INIT writes DCEIP or VBIOS (nor MODE). -/
def Obligations.OnlyInitWritesCapabilities : Prop :=
  ∀ (i : Instr) (s t : State), exec i s = .next t → (∀ v st, i ≠ .bweInit v st) →
    ∀ a, 0x1000 ≤ a → a < 0x2800 → t.mem.read a = s.mem.read a

/-! ## Reset and the window (70_reset_and_hazards.md, 20_memory.md) -/

/-- R310: what a reset between accesses leaves, and that State.reset is such a state. -/
def Obligations.ResetState : Prop :=
  (∀ (s : State) (rest : List HostEvent), s.pending = .reset :: rest → ∃ t, step s = .next t
      ∧ t.fxuStatus = 0 ∧ t.bweStatus = 0 ∧ t.bweVersion = 0 ∧ t.readWindow 0x000 = 0x31435742
      ∧ (∀ r : Reg, t.fr[r].loWritten = false ∧ t.fr[r].hiWritten = false) ∧ (∀ a, t.mem.read a = none)
      ∧ t.pending = rest)
    ∧ State.reset.fxuStatus = 0 ∧ State.reset.bweStatus = 0 ∧ State.reset.bweVersion = 0
    ∧ State.reset.readWindow 0x000 = 0x31435742
    ∧ (∀ r : Reg, State.reset.fr[r].loWritten = false ∧ State.reset.fr[r].hiWritten = false)
    ∧ ∀ a, State.reset.mem.read a = none

/-- R73, R77, R79: a read changes nothing but what the host is given back, which is the register's value, the half of FRn
or of a slot that has been written, or the constant of BLK_ID. -/
def Obligations.HostReads : Prop :=
  ∀ (s : State) (rest : List HostEvent) (offset : Nat), s.pending = r32 offset :: rest → offset % 4 = 0 →
    offset < 0x8000 →
    ∃ v, step s = .next { s with pending := rest, response := some v }
      ∧ (offset = 0x000 → v = 0x31435742) ∧ (offset = 0x008 → v = s.fxuStatus) ∧ (offset = 0x010 → v = s.bweStatus)
      ∧ (offset = 0x014 → v = s.bweVersion)
      ∧ (∀ r : Reg, offset = 0x100 + 8 * r.val → s.fr[r].loWritten = true → v = lowHalf (s.frValue r))
      ∧ (∀ r : Reg, offset = 0x104 + 8 * r.val → s.fr[r].hiWritten = true → v = highHalf (s.frValue r))
      ∧ ∀ w, inRecord offset = true → s.mem.word offset = some w → v = w

/-- R74: reserved offsets, read-only registers and bits, and the command registers. (A write that has no effect may move the
model's own counter of free values, log entry 4, of which nothing is said.) -/
def Obligations.ReservedAndReadOnly : Prop :=
  ∀ (s : State) (rest : List HostEvent) (offset : Nat) (v : W32), offset % 4 = 0 →
    let reserved := (0x018 ≤ offset ∧ offset < 0x100) ∨ (0x180 ≤ offset ∧ offset < 0x1000)
      ∨ (0x3000 ≤ offset ∧ offset < 0x4000)
    (s.pending = r32 offset :: rest → reserved ∨ offset = 0x004 ∨ offset = 0x00C →
        step s = .next { s with pending := rest, response := some 0 })
      ∧ (s.pending = w32 offset v :: rest → reserved ∨ offset = 0x000 ∨ offset = 0x014 →
        ∃ d, step s = .next { s with pending := rest, response := none, draws := d })
      ∧ (s.pending = w32 offset v :: rest → offset = 0x010 → ∃ t, step s = .next t
        ∧ t.bweStatus &&& ~~~bweStickyBits = s.bweStatus &&& ~~~bweStickyBits)

/-- 10_state.md R24, R26, R80: write-1-to-clear, bit by bit, and nothing else changes. -/
def Obligations.WriteOneToClear : Prop :=
  ∀ (s : State) (rest : List HostEvent) (v : W32),
    (s.pending = w32 0x008 v :: rest → ∃ t, step s = .next t
        ∧ (∀ k, k < 32 → t.fxuStatus.getLsbD k = (s.fxuStatus.getLsbD k && !(decide (k ≤ 2) && v.getLsbD k)))
        ∧ t.bweStatus = s.bweStatus ∧ t.bweVersion = s.bweVersion ∧ (∀ r : Reg, t.fr[r] = s.fr[r]) ∧ sameMemory s t)
      ∧ (s.pending = w32 0x010 v :: rest → ∃ t, step s = .next t
        ∧ (∀ k, k < 32 → t.bweStatus.getLsbD k
            = (s.bweStatus.getLsbD k && !(decide (1 ≤ k ∧ k ≤ 3) && v.getLsbD k)))
        ∧ t.fxuStatus = s.fxuStatus ∧ t.bweVersion = s.bweVersion ∧ (∀ r : Reg, t.fr[r] = s.fr[r]) ∧ sameMemory s t)

/-- R71, R76, 43_fxu_move.md R184: a host write of one half of FRn leaves the other half and everything else, raises
nothing, and counts that half as written. -/
def Obligations.HostWritesFrHalf : Prop :=
  ∀ (s : State) (rest : List HostEvent) (r : Reg) (v : W32),
    (s.pending = w32 (0x100 + 8 * r.val) v :: rest → ∃ t, step s = .next t
        ∧ t.frValue r = highHalf (s.frValue r) ++ v ∧ t.fr[r].loWritten = true
        ∧ t.fr[r].hiWritten = s.fr[r].hiWritten ∧ (∀ q : Reg, q ≠ r → t.fr[q] = s.fr[q])
        ∧ t.fxuStatus = s.fxuStatus ∧ t.bweStatus = s.bweStatus ∧ t.bweVersion = s.bweVersion ∧ sameMemory s t)
      ∧ (s.pending = w32 (0x104 + 8 * r.val) v :: rest → ∃ t, step s = .next t
        ∧ t.frValue r = v ++ lowHalf (s.frValue r) ∧ t.fr[r].hiWritten = true
        ∧ t.fr[r].loWritten = s.fr[r].loWritten ∧ (∀ q : Reg, q ≠ r → t.fr[q] = s.fr[q])
        ∧ t.fxuStatus = s.fxuStatus ∧ t.bweStatus = s.bweStatus ∧ t.bweVersion = s.bweVersion ∧ sameMemory s t)

/-- R71, R76, R77: a host write of a word of a record stores its four bytes, the lowest first, and does nothing else. -/
def Obligations.HostWritesRecord : Prop :=
  ∀ (s : State) (rest : List HostEvent) (offset : Nat) (v : W32), s.pending = w32 offset v :: rest → offset % 4 = 0 →
    inRecord offset = true →
    ∃ t, step s = .next t ∧ (∀ i, i < 4 → t.mem.read (offset + i) = some (v.extractLsb' (8 * i) 8))
      ∧ sameMemoryOutside offset (offset + 4) s t ∧ t.mem.word offset = some v ∧ (∀ r : Reg, t.fr[r] = s.fr[r])
      ∧ t.fxuStatus = s.fxuStatus ∧ t.bweStatus = s.bweStatus ∧ t.bweVersion = s.bweVersion ∧ t.pending = rest

/-- An access that is not 32 bits at a multiple of 4, and an access of a second host agent, are refused (20_memory.md sections 1
and 4, R72 and R81). Which of the two refusals a misshapen access of a second agent ends in, and that an offset outside the window
does not matter to either, is the model's choice (log entry 7). -/
def Obligations.RefusedAccesses : Prop :=
  ∀ (s : State) (rest : List HostEvent) (a : Access) (v : W64),
    (s.pending = .read a :: rest ∨ s.pending = .write a v :: rest) →
      (a.agent = .owner → (a.width ≠ .w32 ∨ a.offset % 4 ≠ 0) → step s = .refused (.badAccess a))
        ∧ (a.agent = .other → step s = .refused .secondAgent)

/-! ## The invariant -/

/-- The machine keeps its invariant (Inv, Sys2Proof/Safety.lean): canonical record memory, reserved bits that read as zero,
BWE_VERSION as the last INIT leaves it, and what RES_VALID and OUT_VALID say. -/
def Obligations.InvStep : Prop := ∀ s t : State, Inv s → step s = .next t → Inv t

/-- The invariant holds after reset. -/
def Obligations.InvReset : Prop := Inv State.reset

/-! ## BWE.INIT (44_bwe_init.md) -/

/-- R190, R191, and the determinism that R194 infers from them: INIT loads the tables of a known family, or zeros, into every slot of DCEIP and VBIOS, whatever they held,
sets BWE_VERSION, and changes nothing else. -/
def Obligations.InitLoadsTables : Prop :=
  ∀ (version : BitVec 4) (stoney : Bool) (s : State),
    let known := 1 ≤ version.toNat ∧ version.toNat ≤ 3
    let st := stoney && decide (version.toNat = 1)
    OnlyWord .bwe (bweWord 1 version stoney) (.bweInit version stoney)
      ∧ ∃ t, exec (.bweInit version stoney) s = .next t
        ∧ (∀ k, k < 256 →
            t.mem.slot (0x1000 + 8 * k) = some (if known then capDceipSlot version.toNat st k else 0)
              ∧ t.mem.slot (0x1800 + 8 * k) = some (if known then capVbiosSlot version.toNat k else 0))
        ∧ (∀ s' t', exec (.bweInit version stoney) s' = .next t' →
            ∀ a, 0x1000 ≤ a → a < 0x2000 → t'.mem.read a = t.mem.read a)
        ∧ sameMemoryOutside 0x1000 0x2000 s t
        ∧ t.bweVersion = BitVec.ofNat 32 (version.toNat + 16 * st.toNat + 32)
        ∧ t.bweStatus = s.bweStatus ∧ BweFrame s t

/-- R192: the constraints on CAP_TABLE, scenario A among them: with its tables loaded and MODE of P5, CALC completes with
mode_check ok and y_clk_level low, and BWCALCS answers that the configuration is supported. That predownscaler_capable, DCEIP slot 16,
is 0 or 1 is the model's inference from 10_state.md R30 (log entry 13). -/
def Obligations.CapabilityTables : Prop :=
  capDceipSlot 1 false 0 = 3 ∧ capDceipSlot 1 true 0 = 2 ∧ capDceipSlot 2 false 0 = 6 ∧ capDceipSlot 3 false 0 = 6
    ∧ (∀ k, 8 ≤ k → capDceipSlot 1 true k = capDceipSlot 1 false k)
    ∧ (∀ version base, (base = 0 ∨ base = 3 ∨ base = 6) →
        let at_ := fun j => (capVbiosSlot version (base + j)).toInt
        0 < at_ 0 ∧ at_ 0 ≤ at_ 1 ∧ at_ 1 ≤ at_ 2)
    ∧ (∀ version stoney, capDceipSlot version stoney 16 = 0 ∨ capDceipSlot version stoney 16 = 1)
    ∧ ∀ s : State, ScenarioAReady s.mem →
      (∃ t, exec .bweCalc s = .next t ∧ t.mem.slot 0x4000 = some 0 ∧ t.mem.slot 0x4038 = some 0)
        ∧ ∃ t, exec .bweBwcalcs s = .next t ∧ t.mem.slot 0x2800 = some 1 ∧ bitSet t.bweStatus supportedBit = true

/-! ## BWE.CALC (45_bwe_calculate.md) -/

/-- R200, 46_bwe_bwcalcs.md R271: an illegal MODE sets ILL and leaves everything else, for CALC and for BWCALCS. LegalMode is R200's
list in slot numbers and bounds (10_state.md R33, R45); how far that list reaches, and that a number of displays above 6 is illegal
whatever else MODE holds, is the model's reading (log entries 3 and 9). -/
def Obligations.IllegalModeOnlySetsIll : Prop :=
  ∀ (s : State), ((modeWritten s.mem ∧ ¬LegalMode (modeSlot s.mem))
      ∨ ((s.mem.slot 0x2000).isSome ∧ 6 < modeCount s.mem)) →
    exec .bweCalc s = .next { s with bweStatus := s.bweStatus ||| 2 }
      ∧ exec .bweBwcalcs s = .next { s with bweStatus := s.bweStatus ||| 2 }

/-- 70_reset_and_hazards.md R311: a command that needs a MODE, DCEIP or VBIOS field that holds no value faults, naming
such a field. NeededModeSlot and the 19 and 15 capability slots are R313's list, which the model takes for the fields that a command
needs (log entry 3). -/
def Obligations.UnwrittenFieldFaults : Prop :=
  ∀ (s : State),
    let needed := NeededModeSlot (modeSlot s.mem) (modeCount s.mem)
    ((s.mem.slot 0x2000).isSome = false →
        exec .bweCalc s = .fault (.unwrittenSlot 0x2000) ∧ exec .bweBwcalcs s = .fault (.unwrittenSlot 0x2000))
      ∧ ((s.mem.slot 0x2000).isSome = true → modeCount s.mem ≤ 6 →
        (∃ k, needed k ∧ (s.mem.slot (0x2000 + 8 * k)).isSome = false) →
        ∃ k, needed k ∧ (s.mem.slot (0x2000 + 8 * k)).isSome = false
          ∧ exec .bweCalc s = .fault (.unwrittenSlot (0x2000 + 8 * k))
          ∧ exec .bweBwcalcs s = .fault (.unwrittenSlot (0x2000 + 8 * k)))
      ∧ (modeWritten s.mem → LegalMode (modeSlot s.mem) → ¬capabilitiesWritten s.mem →
        ∃ a, ((∃ k, k < 19 ∧ a = 0x1000 + 8 * k) ∨ ∃ k, k < 15 ∧ a = 0x1800 + 8 * k) ∧ (s.mem.slot a).isSome = false
          ∧ exec .bweCalc s = .fault (.unwrittenSlot a)
          ∧ (1 ≤ modeCount s.mem → exec .bweBwcalcs s = .fault (.unwrittenSlot a)))

/-- R200, R203, R235: CALC with its records ready reads each field of DCEIP, VBIOS and MODE from its slot (10_state.md R31 to R33),
writes every RESULTS slot with what CALC_CORE builds, each field at its slot and in its code (R35, R45), sets RES_VALID and the
conditions raised, and changes nothing else. That a BOOL is written as 0 or 1 wherever it comes from is log entry 17; that a reserved
slot of DCEIP or VBIOS reaches the stage formulas as it is, and that RESULTS holds their extension fields, are log entries 10 and 11. -/
def Obligations.CalcCompletes : Prop :=
  OnlyWord .bwe 0x00000002 .bweCalc
    ∧ ∀ s : State, CalcReady s.mem →
      let env := envOf s.mem
      let c := (calcCore env (CalcState.start s.draws)).2
      DceipLayout s.mem env.dceip ∧ VbiosLayout s.mem env.vbios ∧ ModeLayout s.mem env.mode ∧ ResultsLayout c.results
        ∧ ∃ t, exec .bweCalc s = .next t
          ∧ (∀ k, k < 2048 → t.mem.slot (0x4000 + 8 * k) = some (c.results.slot k))
          ∧ sameMemoryOutside 0x4000 0x8000 s t
          ∧ t.bweStatus = s.bweStatus ||| 0x10 ||| (if c.dz then 4 else 0) ||| (if c.ov then 8 else 0)
          ∧ t.bweVersion = s.bweVersion ∧ BweFrame s t

/-- R232, which the spec infers from R203 and R231: RESULTS and the status bits a CALC sets are a function of DCEIP, VBIOS and MODE,
whatever RESULTS held before (and, where a CALC raises DZ, of the free values, which the counter `draws` selects, log entry 4). -/
def Obligations.CalcIdempotent : Prop :=
  ∀ s s' : State, (∀ a, 0x1000 ≤ a → a < 0x2800 → s'.mem.read a = s.mem.read a) → CalcReady s.mem →
    s'.draws = s.draws ∨ (calcCore (envOf s.mem) (CalcState.start s.draws)).2.dz = false → ∃ t t' bits, exec .bweCalc s = .next t ∧ exec .bweCalc s' = .next t'
      ∧ (∀ a, 0x4000 ≤ a → a < 0x8000 → t'.mem.read a = t.mem.read a)
      ∧ t.bweStatus = s.bweStatus ||| bits ∧ t'.bweStatus = s'.bweStatus ||| bits

/-- R201, R204, R205, R206: which surface slots are enabled and how they are classified, in the RESULTS of every
CALC_CORE. -/
def Obligations.SurfaceClassification : Prop :=
  ∀ (env : CalcEnv) (draws : Nat),
    let m := env.mode
    let cls := fun i : Slot => (resultsOf env draws).surfaces[i].cls
    (∀ q : Fin 6, cls (graphicsSlot q) =
        if q.val < m.n ∧ m.underlayMode q.val ≠ .underlayOnly then
          { enable := true, surfaceType := .graphics, useAlpha := decide (m.underlayMode q.val = .blended),
            bytesPerPixel := (m.display q.val).bytesPerPixel, displayIndex := q.val }
        else {})
      ∧ (∀ (u : Fin 2) (luma chroma : Slot), luma.val = 2 * u.val → chroma.val = 2 * u.val + 1 →
        cls luma = (if u.val < m.n ∧ m.underlayMode u.val ≠ .none then
          { enable := true,
            surfaceType := match m.underlayFormat with
              | .f420 => .underlay420Luma
              | .f422 => .underlay422
              | .f444 => .underlay444,
            bytesPerPixel := env.params.ulBpp m.underlayFormat .luma, displayIndex := u.val }
        else {})
        ∧ cls chroma = if u.val < m.n ∧ m.underlayMode u.val ≠ .none ∧ m.underlayFormat = .f420 then
          { enable := true, surfaceType := .underlay420Chroma, bytesPerPixel := env.params.ulBpp .f420 .chroma,
            displayIndex := u.val }
        else {})
      ∧ cls 10 = (if m.writebackEnable = true ∧ 1 ≤ m.n then
          { enable := true, surfaceType := .writebackLuma, bytesPerPixel := m.writeback.bytesPerPixel }
        else {})
      ∧ cls 11 = if m.writebackEnable = true ∧ 1 ≤ m.n then
          { enable := true, surfaceType := .writebackChroma, bytesPerPixel := m.writeback.bytesPerPixel }
        else {}

/-- R202: every per-surface field of a disabled slot keeps the 0 of R203. That this covers the extension arrays 36 to 119 too, so
that a formula's write to one of them for a disabled slot is not made, is the model's choice (log entry 11). -/
def Obligations.DisabledSlotsAreZero : Prop :=
  ∀ (env : CalcEnv) (draws : Nat) (i : Slot), (resultsOf env draws).surfaces[i].cls.enable = false →
    ∀ j, j < 120 → (resultsOf env draws).slot (128 + 16 * j + i.val) = 0

/-- R207 to R211: the geometry of every enabled slot: what its role copies, the halving of a 420 chroma plane, the swap of a
rotated slot that is not graphics, then the doublings of stereo and interlace, in this order. -/
def Obligations.SlotGeometry : Prop :=
  ∀ (env : CalcEnv) (draws : Nat) (i : Slot),
    let sf := (resultsOf env draws).surfaces[i]
    let kind := sf.cls.surfaceType
    let d := env.mode.display sf.cls.displayIndex
    let u := env.mode.underlay
    let w := env.mode.writeback
    let chroma : Prop := kind = .underlay420Chroma ∨ kind = .writebackChroma
    let half := fun v : W64 => if chroma then (Fx.div v 0x2000000).word? else some v
    let doubleIf := fun (p : Bool) (v : W64) => if p then (Fx.mul v 0x2000000).word? else some v
    sf.cls.enable = true →
      sf.geo.hTaps = kind.pick d.hTaps u.hTaps w.hTaps ∧ sf.geo.vTaps = kind.pick d.vTaps u.vTaps w.vTaps
        ∧ sf.geo.rotationAngle = kind.pick d.rotationAngle u.rotationAngle 0
        ∧ sf.geo.stereoMode = kind.pick d.stereoMode d.stereoMode .mono
        ∧ sf.geo.interlace = kind.pick d.interlace d.interlace false
        ∧ sf.geo.tilingMode = kind.pick d.tilingMode u.tilingMode w.tilingMode
        ∧ sf.geo.scatterGatherEnable = kind.pick d.scatterGatherEnable u.scatterGatherEnable false
        ∧ sf.geo.orthogonalRotation = decide (sf.geo.rotationAngle = 90 ∨ sf.geo.rotationAngle = 270)
        ∧ ∃ width height hsr vsr : W64,
          half (kind.pick d.srcWidth u.srcWidth w.srcWidth) = some width
            ∧ half (kind.pick d.srcHeight u.srcHeight w.srcHeight) = some height
            ∧ half (kind.pick d.hsr u.hsr w.hsr) = some hsr ∧ half (kind.pick d.vsr u.vsr w.vsr) = some vsr
            ∧ let swap : Prop := kind ≠ .graphics ∧ sf.geo.orthogonalRotation = true
              some sf.geo.sourceWidth
                  = doubleIf (decide (sf.geo.stereoMode = .sideBySide)) (if swap then height else width)
                ∧ some sf.geo.sourceHeight
                  = doubleIf (decide (sf.geo.stereoMode = .topBottom)) (if swap then width else height)
                ∧ sf.geo.hsr = (if swap then vsr else hsr)
                ∧ some sf.geo.vsr = doubleIf sf.geo.interlace (if swap then hsr else vsr)

/-- R212: chunk rounding, with the quantum FX(128) under panning or bezel adjustment and FX(256) otherwise. For a positive
width it is a multiple of the quantum less than one quantum above it, and it never decreases as the width grows (from the CEIL of R141). -/
def Obligations.ChunkRounding : Prop :=
  (∀ (env : CalcEnv) (draws : Nat) (i : Slot),
    let sf := (resultsOf env draws).surfaces[i]
    sf.cls.enable = true →
      some sf.geo.widthRoundedUpToChunks
        = (Fx.ceil sf.geo.sourceWidth (if env.mode.panning ≠ .none then 0x80000000 else 0x100000000)).word?)
    ∧ ∀ (q w w' r r' : W64), (q = 0x80000000 ∨ q = 0x100000000) → 0 < w.toInt → w.toInt ≤ w'.toInt →
      Fx.ceil w q = .exact r → Fx.ceil w' q = .exact r' →
        r.toInt ≤ r'.toInt ∧ w.toInt ≤ r.toInt ∧ r.toInt < w.toInt + q.toInt ∧ q.toInt ∣ r.toInt

/-- R213, R218: the pipe check, an underlay counted by display, and the mode check over the six checks. -/
def Obligations.PipeAndModeChecks : Prop :=
  ∀ (env : CalcEnv) (draws : Nat),
    let r := resultsOf env draws
    let count := fun slots : List Slot => (slots.filter fun i => r.surfaces[i].cls.enable).length
    r.numberOfEnabledGraphics = count [4, 5, 6, 7, 8, 9] ∧ r.numberOfEnabledUnderlay = count [0, 2]
      ∧ r.numberOfEnabledWriteback = count [10]
      ∧ r.pipeCheck = (if (r.numberOfEnabledGraphics : Int) ≤ env.dceip.numberOfGraphicsPipes.toInt
          ∧ (r.numberOfEnabledUnderlay : Int) ≤ env.dceip.numberOfUnderlayPipes.toInt
          ∧ (r.numberOfEnabledWriteback : Int) ≤ env.dceip.numberOfWritebackPipes.toInt then .ok else .notok)
      ∧ r.modeCheck = if r.pipeCheck = .ok ∧ r.hsrCheck = .ok ∧ r.vsrCheck = .ok ∧ r.lbSizeCheck = .ok
          ∧ r.fbcCheck = .ok ∧ r.rotationCheck = .ok then .ok else .notok

/-- R214 to R217: the scale-ratio and line-buffer checks over the enabled slots that are not write-back, the FBC check over the
graphics slots, and the rotation check over every enabled slot: each fails exactly when some slot fails it. lb_partitions(i) is what
its formula answers for what R231 says it reads; which lb_size belongs to a surface type is the model's choice (log entry 14). -/
def Obligations.SlotChecks : Prop :=
  ∀ (env : CalcEnv) (draws : Nat),
    let r := resultsOf env draws
    let checked := fun i : Slot => r.surfaces[i].cls.enable = true
      ∧ r.surfaces[i].cls.surfaceType ≠ .writebackLuma ∧ r.surfaces[i].cls.surfaceType ≠ .writebackChroma
    let badHsr := fun i : Slot => checked i ∧ env.params.hsrVsrOk .horizontal r.surfaces[i].geo.hsr
      r.surfaces[i].geo.hTaps env.dceip.predownscalerCapable r.surfaces[i].cls.surfaceType = false
    let badVsr := fun i : Slot => checked i ∧ env.params.hsrVsrOk .vertical r.surfaces[i].geo.vsr
      r.surfaces[i].geo.vTaps env.dceip.predownscalerCapable r.surfaces[i].cls.surfaceType = false
    let badLb := fun i : Slot => checked i ∧ ∃ needed, (Fx.fromInt (r.surfaces[i].geo.vTaps + 1)).word? = some needed
      ∧ r.surfaces[i].lbPartitions.toInt < needed.toInt
    let badFbc := fun q : Fin 6 => r.surfaces[graphicsSlot q].cls.enable = true
      ∧ (env.mode.display q.val).fbcEnable = true
      ∧ (r.surfaces[graphicsSlot q].geo.rotationAngle ≠ 0 ∨ r.surfaces[graphicsSlot q].geo.stereoMode ≠ .mono
        ∨ r.surfaces[graphicsSlot q].cls.bytesPerPixel ≠ 4)
    let badRotation := fun i : Slot => r.surfaces[i].cls.enable = true ∧ r.surfaces[i].geo.rotationAngle ≠ 0
      ∧ (r.surfaces[i].geo.tilingMode = .linear ∨ r.surfaces[i].geo.stereoMode ≠ .mono)
    let lbSize : SurfaceType → W64 := fun
      | .underlay420Luma => env.dceip.lbSizeUnderlay420Luma
      | .underlay420Chroma => env.dceip.lbSizeUnderlay420Chroma
      | .underlay422 => env.dceip.lbSizeUnderlay422
      | .underlay444 => env.dceip.lbSizeUnderlay444
      | _ => env.dceip.lbSizeGraphics
    (∀ i, checked i →
        let sf := r.surfaces[i]
        Answers env (fun x => env.params.stage.lbPartitions x i
          { surfaceType := sf.cls.surfaceType, lbSize := lbSize sf.cls.surfaceType
            widthRoundedUpToChunks := sf.geo.widthRoundedUpToChunks, bytesPerPixel := sf.cls.bytesPerPixel
            hTaps := sf.geo.hTaps, hsr := sf.geo.hsr }) sf.lbPartitions)
      ∧ (((∃ i, badHsr i) ∧ r.hsrCheck = .hsrNotSupportedByTaps) ∨ ((∀ i, ¬badHsr i) ∧ r.hsrCheck = .ok))
      ∧ (((∃ i, badVsr i) ∧ r.vsrCheck = .vsrNotSupportedByTaps) ∨ ((∀ i, ¬badVsr i) ∧ r.vsrCheck = .ok))
      ∧ (((∃ i, badLb i) ∧ r.lbSizeCheck = .notok) ∨ ((∀ i, ¬badLb i) ∧ r.lbSizeCheck = .ok))
      ∧ (((∃ q, badFbc q) ∧ r.fbcCheck = .invalidRotationOrBppOrStereo) ∨ ((∀ q, ¬badFbc q) ∧ r.fbcCheck = .ok))
      ∧ (((∃ i, badRotation i) ∧ r.rotationCheck = .invalidLinearOrStereoMode)
        ∨ ((∀ i, ¬badRotation i) ∧ r.rotationCheck = .ok))

/-- R219, R223: the stage 4 fields of every enabled slot, the useful bytes halved for an 8bpp tiled orthogonal rotation; then the
buffer sizes, with the single-display factor, throttled or not, the request limits, and the check of their PTE total. A throttled
size is what its formula answers where that is not above the unthrottled one; that it is never above it, whatever the formula answers,
is how the model holds R223's condition on the formula (log entry 12). -/
def Obligations.RequestBudgets : Prop :=
  ∀ (env : CalcEnv) (draws : Nat),
    let r := resultsOf env draws
    let f := env.params.stage
    let enabled := fun i : Slot => r.surfaces[i].cls.enable = true
    (∀ i : Slot, enabled i →
        let sf := r.surfaces[i]
        let reads := requestReads env sf
        Answers env (fun x => f.bytesPerRequest x i reads) sf.req.bytesPerRequest
          ∧ (∃ u, Answers env (fun x => f.usefulBytesPerRequest x i reads) u
            ∧ some sf.req.usefulBytesPerRequest
              = if sf.cls.bytesPerPixel = 1 ∧ sf.geo.tilingMode = .tiled ∧ sf.geo.orthogonalRotation = true
                then (Fx.div u 0x2000000).word? else some u)
          ∧ Answers env (fun x => f.linesInterleaved x i reads) sf.req.linesInterleaved
          ∧ Answers env (fun x => f.latencyHidingLines x i reads) sf.req.latencyHidingLines)
      ∧ (∃ unthrottled : Slot → W64,
        (∀ i : Slot, enabled i → ∃ b, Answers env (fun x => f.dataBufferSize x i (bufferReads env r.surfaces[i])) b
            ∧ some (unthrottled i)
              = if r.surfaces[i].cls.surfaceType = .graphics ∧ env.mode.n = 1 ∧ r.surfaces[(10 : Slot)].cls.enable = false
                then (Fx.mul b env.dceip.singleDisplayGraphicsBufferFactor).word? else some b)
          ∧ let total := wrappedSum ((allSlots.filter fun i => r.surfaces[i].cls.enable).map unthrottled)
            let throttle : Prop := 1 < env.mode.n ∨ env.dceip.globalRequestBufferSize.toInt < total.toInt
            ∀ i : Slot, enabled i →
              (¬throttle → r.surfaces[i].buf.dataBufferSize = unthrottled i)
                ∧ (throttle → r.surfaces[i].buf.dataBufferSize.toInt ≤ (unthrottled i).toInt
                  ∧ ∃ b, Answers env (fun x => f.throttledBufferSize x i (bufferReads env r.surfaces[i])) b
                    ∧ (b.toInt ≤ (unthrottled i).toInt → r.surfaces[i].buf.dataBufferSize = b)))
      ∧ (∀ i : Slot, enabled i →
        let sf := r.surfaces[i]
        Answers env (fun x => f.chunkRequestLimit x i (limitReads env sf)) sf.buf.outstandingChunkRequestLimit
          ∧ (sf.geo.scatterGatherEnable = true →
            Answers env (fun x => f.pteRequestLimit x i (limitReads env sf)) sf.buf.outstandingPteRequestLimit)
          ∧ (sf.geo.scatterGatherEnable = false → sf.buf.outstandingPteRequestLimit = 0))
      ∧ ∃ limit, (Fx.fromInt env.dceip.pteRequestQueueSize).word? = some limit
        ∧ r.pteRequestCheck
          = if limit.toInt < (wrappedSum ((r.enabledSurfaces.filter fun sf => sf.geo.scatterGatherEnable).map
              fun sf => sf.buf.outstandingPteRequestLimit)).toInt
            then .exceededPteQueue else .ok

/-- R220, R221: the filter initialisation with its stereo clamp, prefetch eligibility, the beginning value, and the middle
lines-in-per-line-out value: vsr where the slot prefetches, else the smallest member of the set that is not below vsr, and 4
above it. -/
def Obligations.LinesInPerLineOut : Prop :=
  ∀ (env : CalcEnv) (draws : Nat) (i : Slot),
    let sf := (resultsOf env draws).surfaces[i]
    let set : List W64 := [0x1000000, 0x1555555, 0x1800000, 0x2000000, 0x3000000, 0x4000000]
    sf.cls.enable = true →
      sf.bw.lbPrefetchEligible = (!((decide (sf.cls.surfaceType = .graphics)
          && (decide (0x1000000 < sf.geo.hsr.toInt) || decide (0x1000000 < sf.geo.vsr.toInt)))
          || decide (env.mode.panning = .oddLines)))
        ∧ (∃ f, Answers env (fun x => env.params.stage.vFilterInit x i
              { vTaps := sf.geo.vTaps, vsr := sf.geo.vsr, interlace := sf.geo.interlace }) f
            ∧ sf.bw.vFilterInit
              = if sf.geo.stereoMode = .topBottom ∧ 0x4000000 < f.toInt then 0x4000000 else f)
        ∧ Answers env (fun x => env.params.stage.linesInPerLineOutBeginning x i
            { vsr := sf.geo.vsr, vFilterInit := sf.bw.vFilterInit, lbPrefetchEligible := sf.bw.lbPrefetchEligible })
          sf.bw.linesInPerLineOutBeginning
        ∧ (sf.bw.lbPrefetchEligible = true → sf.bw.linesInPerLineOutMiddle = sf.geo.vsr)
        ∧ (sf.bw.lbPrefetchEligible = false →
          sf.bw.linesInPerLineOutMiddle ∈ set
            ∧ (sf.geo.vsr.toInt ≤ 0x4000000 → sf.geo.vsr.toInt ≤ sf.bw.linesInPerLineOutMiddle.toInt
              ∧ ∀ x ∈ set, sf.geo.vsr.toInt ≤ x.toInt → sf.bw.linesInPerLineOutMiddle.toInt ≤ x.toInt)
            ∧ (0x4000000 < sf.geo.vsr.toInt → sf.bw.linesInPerLineOutMiddle = 0x4000000))

/-- R222, R224: the request and display bandwidth of every enabled slot; the read-side total with the cursor and PTE overhead
and the write-back total; the sclk totals; what is available at each tier; and the page and maximum-bandwidth checks. -/
def Obligations.BandwidthTotals : Prop :=
  ∀ (env : CalcEnv) (draws : Nat),
    let r := resultsOf env draws
    let f := env.params.stage
    let reads := totalReads env r
    let bandwidths := fun writeback : Bool =>
      (r.enabledSurfaces.filter fun sf => sf.cls.surfaceType.isWriteback == writeback).map fun sf => sf.bw.displayBandwidth
    (∀ i : Slot, r.surfaces[i].cls.enable = true →
        let sf := r.surfaces[i]
        Answers env (fun x => f.requestBandwidth x i
            { widthRoundedUpToChunks := sf.geo.widthRoundedUpToChunks
              linesInPerLineOutBeginning := sf.bw.linesInPerLineOutBeginning
              linesInPerLineOutMiddle := sf.bw.linesInPerLineOutMiddle
              bytesPerRequest := sf.req.bytesPerRequest, usefulBytesPerRequest := sf.req.usefulBytesPerRequest
              hsr := sf.geo.hsr, bytesPerPixel := sf.cls.bytesPerPixel
              pixelRate := (env.mode.display sf.cls.displayIndex).pixelRate
              hTotal := (env.mode.display sf.cls.displayIndex).hTotal }) sf.bw.requestBandwidth
          ∧ some sf.bw.displayBandwidth = (Fx.mul sf.bw.requestBandwidth sf.req.bytesPerRequest).word?)
      ∧ (∃ overhead, Answers env (fun x => f.cursorAndPteDramOverhead x reads) overhead
        ∧ r.totalDmifDramBandwidth = wrappedSum (bandwidths false) + overhead)
      ∧ r.totalMcifwrDramBandwidth = wrappedSum (bandwidths true)
      ∧ Answers env (fun x => f.dmifSclkBandwidth x reads) r.totalDmifSclkBandwidth
      ∧ Answers env (fun x => f.mcifwrSclkBandwidth x reads) r.totalMcifwrSclkBandwidth
      ∧ Answers env (fun x => f.toGbytePerSecond x reads r.totalDram) r.requiredDramBandwidthGbytePerSecond
      ∧ (∀ t : Tier,
        Answers env (fun x => f.availableDramBandwidth x reads (env.vbios.yclk.get t)) (r.availableDramBandwidth.get t)
          ∧ Answers env (fun x => f.availableSclkBandwidth x reads (env.vbios.sclk.get t)) (r.availableSclkBandwidth.get t))
      ∧ (∃ ok, Answers env (fun x => f.pageCloseOpenOk x reads) ok
        ∧ r.pageCloseOpenCheck = if ok ≠ 0 then .ok else .exceededPageCloseOpen)
      ∧ r.maximumBwCheck
        = if r.availableDramBandwidth.high.toInt < r.totalDram.toInt ∨ r.availableSclkBandwidth.high.toInt < r.totalSclk.toInt
          then .exceededMaximumBw else .ok

/-- R233, as the model asks it of every implementation (log entry 12): of two legal MODEs of one display without an underlay that
differ in graphics_src_width alone, the wider never gets the lower required_dram_bandwidth_gbyte_per_second from CALC (RESULTS
slot 22, 10_state.md R35), where neither CALC leaves DZ or OV set. -/
def Obligations.WidthNeverLowersDemand : Prop :=
  ∀ s s' : State, CalcReady s.mem → CalcReady s'.mem →
    (∀ a, 0x1000 ≤ a → a < 0x2000 → s'.mem.read a = s.mem.read a) →
    (∀ k, k < 256 → k ≠ 18 → s'.mem.slot (0x2000 + 8 * k) = s.mem.slot (0x2000 + 8 * k)) →
    modeCount s.mem = 1 → modeSlot s.mem 4 = 0 → (modeSlot s.mem 18).toInt ≤ (modeSlot s'.mem 18).toInt →
    ∃ t t' demand demand', exec .bweCalc s = .next t ∧ exec .bweCalc s' = .next t'
      ∧ t.mem.slot (0x4000 + 8 * 22) = some demand ∧ t'.mem.slot (0x4000 + 8 * 22) = some demand'
      ∧ (t.bweStatus &&& 0xC = 0 → t'.bweStatus &&& 0xC = 0 → demand.toInt ≤ demand'.toInt)

/-- R225: every cell of the grid is the hiding time less LAT_X less the burst time, and the dispclk requirement; each capability is
enabled exactly when it is feasible at the highest tier pair; and the grid's slots are where 10_state.md R35 puts them. -/
def Obligations.StateChangeEnables : Prop :=
  ∀ (env : CalcEnv) (draws : Nat),
    let r := resultsOf env draws
    let f := env.params.stage
    (∀ (X : Capability) (y s : Tier),
        (∃ slack burst, Answers env (fun x => f.hidingTime x X y s (gridReads env r y s)) slack
            ∧ Answers env (fun x => f.burstTime x y s (gridReads env r y s)) burst
            ∧ (r.cell X y s).margin = slack - latencyOf env.vbios X - burst)
          ∧ Answers env (fun x => f.stateChangeDispclk x X y s (gridReads env r y s)) (r.cell X y s).dispclkRequired)
      ∧ (∀ X : Capability, r.stateChangeEnable.get X = true ↔ Feasible env.vbios r X .high .high)
      ∧ ∀ (X : Capability) (y s : Tier), r.slot (36 + 18 * X.number + 3 * y.rank + s.rank) = (r.cell X y s).margin
        ∧ r.slot (36 + 18 * X.number + 9 + 3 * y.rank + s.rank) = (r.cell X y s).dispclkRequired

/-- R226: stage 9 takes the least yclk tier that fits, then the least sclk tier that fits with it; a domain in which no
tier fits is reported at the high tier with the sentinel FX(9999) as its clock. -/
def Obligations.TierSelection : Prop :=
  ∀ (env : CalcEnv) (totals : Totals) (c : CalcState),
    let r := c.results
    let v := env.vbios
    let out := (stage9 env totals c).2.results
    let noFit := (stage9 env totals c).1
    let fitsY := YclkFits v r totals.dram
    let fitsS := SclkFits v r totals.sclk out.yClkLevel
    (∀ y, fitsY y → (∀ y', fitsY y' → y.rank ≤ y'.rank) →
        out.yClkLevel = y ∧ out.requiredYclk = v.yclk.get y ∧ noFit.y = false)
      ∧ ((∀ y, ¬fitsY y) → out.yClkLevel = .high ∧ out.requiredYclk = 0x270F000000 ∧ noFit.y = true)
      ∧ (∀ s, fitsS s → (∀ s', fitsS s' → s.rank ≤ s'.rank) →
        out.sclkLevel = s ∧ out.requiredSclk = v.sclk.get s ∧ noFit.s = false)
      ∧ ((∀ s, ¬fitsS s) → out.sclkLevel = .high ∧ out.requiredSclk = 0x270F000000 ∧ noFit.s = true)

/-- R227: the three throughput requirements; their MAX with the enabled capabilities' requirements at the selected tiers; its
ramped value; and from these two dispclk and its voltage tier: the sentinel and tier 3 above the high maximum, else the first tier
that either fits, clipped to its maximum where only the unramped one does. (A v_notok then forces dispclk to the sentinel, R228.) That
the throughput formulas read the taps of the enabled slots and the timings of every display below n, and VSC_DEPTHS beside the vscaler
efficiencies, is the model's choice (log entries 10 and 14). -/
def Obligations.DispclkTier : Prop :=
  ∀ (env : CalcEnv) (draws : Nat),
    let r := resultsOf env draws
    let v := env.vbios
    let f := env.params.stage
    let w := r.dispclkRequiredWithoutRamping
    let ramped := r.dispclkRequiredWithRamping
    let fits := fun t : Tier => ramped.toInt ≤ (v.maxDispclk.get t).toInt ∨ w.toInt ≤ (v.maxDispclk.get t).toInt
    Answers env (fun x => f.dispclkPixelThroughput x (dispclkReads env r)) r.dispclkReqPixelThroughput
      ∧ Answers env (fun x => f.dispclkScalerThroughput x (dispclkReads env r)) r.dispclkReqScalerThroughput
      ∧ Answers env (fun x => f.dispclkReadRequestThroughput x (dispclkReads env r)) r.dispclkReqReadRequestThroughput
      ∧ w ∈ dispclkRequirements r ∧ (∀ x ∈ dispclkRequirements r, x.toInt ≤ w.toInt)
      ∧ some ramped = (Fx.mul w env.dceip.dispclkRampingFactor).word?
      ∧ (v.maxDispclk.high.toInt < w.toInt → r.dispclkVoltageTier = 3
        ∧ (r.voltage ≠ .notok → r.dispclk = 0x270F000000))
      ∧ (w.toInt ≤ v.maxDispclk.high.toInt → ∃ t : Tier, fits t ∧ (∀ t' : Tier, fits t' → t.rank ≤ t'.rank)
        ∧ r.dispclkVoltageTier = t.rank
        ∧ (r.voltage ≠ .notok →
          r.dispclk = if ramped.toInt ≤ (v.maxDispclk.get t).toInt then ramped else v.maxDispclk.get t))

/-- R228: the voltage of a finished calculation: v_not_applicable exactly for no display, v_notok exactly on one of the
conditions of its row, a domain without a fitting tier among them; and the sentinels that a v_notok forces. -/
def Obligations.InfeasibleForcesSentinel : Prop :=
  ∀ (env : CalcEnv) (draws : Nat),
    let r := resultsOf env draws
    let noFitY : Prop := ∀ y, ¬YclkFits env.vbios r r.totalDram y
    let noFitS : Prop := ∀ s, ¬SclkFits env.vbios r r.totalSclk r.yClkLevel s
    (r.voltage = .notApplicable ↔ env.mode.n = 0)
      ∧ (r.voltage = .notok ↔ env.mode.n ≠ 0 ∧ (r.modeCheck ≠ .ok ∨ r.maximumBwCheck ≠ .ok ∨ r.pageCloseOpenCheck ≠ .ok
        ∨ r.pteRequestCheck ≠ .ok ∨ noFitY ∨ noFitS ∨ r.dispclkVoltageTier = 3))
      ∧ (r.voltage = .notok → r.dispclk = 0x270F000000 ∧ r.requiredSclk = 0x270F000000)
      ∧ (env.mode.n ≠ 0 → r.voltage ≠ .notok → r.voltage =
          if r.stateChangeEnable.nbp = false then .highNoNbpStateChange
          else if max (max r.yClkLevel.rank r.sclkLevel.rank) r.dispclkVoltageTier = 0 then .low
          else if max (max r.yClkLevel.rank r.sclkLevel.rank) r.dispclkVoltageTier = 1 then .mid
          else .high)

/-- R213, R218, R228 (scenario B): more displays with a graphics surface than graphics pipes fail the mode, whatever the
stage formulas answer. -/
def Obligations.TooManyDisplaysFail : Prop :=
  ∀ (env : CalcEnv) (draws : Nat),
    env.dceip.numberOfGraphicsPipes.toInt
        < ((List.range (min env.mode.n 6)).filter fun k => env.mode.underlayMode k ≠ .underlayOnly).length →
      0 < env.mode.n →
      let r := resultsOf env draws
      r.pipeCheck = .notok ∧ r.modeCheck = .notok ∧ r.voltage = .notok ∧ r.dispclk = 0x270F000000
        ∧ r.requiredSclk = 0x270F000000

/-- R229, R230: the watermarks of an enabled slot at the selected tiers: the urgent one is the urgent latency, the burst time, the line
transfer time and the request overhead together; the stutter-exit one adds the self-refresh exit latency and takes the blackout
away, and is the MIN with the cursor limit in a multi-display mode; the nbp one adds the nbp latency. Then the seven metrics: each is
what its formula answers for VBIOS and the RESULTS fields written before it. That total_urgent_latency reads V.urgent_latency and the
two tiers alone, where its row of R231 also lists v_filter_init, source_width and a pixel rate, is the model's choice (log entry 10). -/
def Obligations.Watermarks : Prop :=
  ∀ (env : CalcEnv) (draws : Nat),
    let r := resultsOf env draws
    let v := env.vbios
    let f := env.params.stage
    let isMetric := fun (number : Nat) (formula : Config.Ext → Config.MetricReads → Config.StageProgram) (w : W64) =>
      ∃ ext, Answers env (fun x => formula x { results := r.beforeMetric number ext, vbios := v }) w
    (∀ i : Slot, r.surfaces[i].cls.enable = true →
        let sf := r.surfaces[i]
        let reads := watermarkReads env r sf
        let stutter := sf.wm.urgent + v.selfRefreshExitLatency - v.blackoutDuration
        Answers env (fun x => f.lineSourceTransferTime x i reads) sf.wm.lineSourceTransferTime
          ∧ (∃ latency burst overhead,
            Answers env (fun x => f.totalUrgentLatency x
                { urgentLatency := v.urgentLatency, yTier := r.yClkLevel, sTier := r.sclkLevel }) latency
              ∧ Answers env (fun x => f.burstTime x r.yClkLevel r.sclkLevel (gridReads env r r.yClkLevel r.sclkLevel)) burst
              ∧ Answers env (fun x => f.requestTimeOverhead x i reads) overhead
              ∧ sf.wm.urgent = latency + burst + sf.wm.lineSourceTransferTime + overhead)
          ∧ sf.wm.nbpStateChange = sf.wm.urgent + v.nbpStateChangeLatency
          ∧ (env.mode.n ≤ 1 → sf.wm.stutterExit = stutter)
          ∧ (1 < env.mode.n → ∃ limit, Answers env (fun x => f.cursorBufferLimit x i reads) limit
            ∧ sf.wm.stutterExit = if stutter.toInt ≤ limit.toInt then stutter else limit))
      ∧ isMetric 0 f.dramAccessEfficiency r.dramAccessEfficiency
      ∧ isMetric 1 f.writeAccessEfficiency r.writeAccessEfficiency
      ∧ isMetric 2 f.averageBandwidthNoCompression r.averageBandwidthNoCompression
      ∧ isMetric 3 f.averageBandwidth r.averageBandwidth
      ∧ isMetric 4 f.stutterEfficiency r.stutterEfficiency
      ∧ isMetric 5 f.immediateFlipLatency r.immediateFlipLatency
      ∧ isMetric 6 f.worstCaseLatencyNonDisplay r.worstCaseLatencyNonDisplay

/-! ## BWE.BWCALCS (46_bwe_bwcalcs.md) -/

/-- R261: BWCALCS with no display. -/
def Obligations.ZeroDisplays : Prop :=
  ∀ s : State, modeWritten s.mem → LegalMode (modeSlot s.mem) → modeCount s.mem = 0 →
    ∃ t, exec .bweBwcalcs s = .next t
      ∧ t.mem.slot 0x2800 = some 1 ∧ t.mem.slot 0x2808 = some 0 ∧ t.mem.slot 0x2810 = some 0
      ∧ t.mem.slot 0x2818 = some 0 ∧ t.mem.slot 0x2820 = some 1 ∧ t.mem.slot 0x2828 = some 1
      ∧ t.mem.slot 0x2830 = some 1 ∧ (∀ k, 8 ≤ k → k < 80 → t.mem.slot (0x2800 + 8 * k) = some 0)
      ∧ (∀ a, ¬(0x2800 ≤ a ∧ a < 0x2838) → ¬(0x2840 ≤ a ∧ a < 0x2A80) → t.mem.read a = s.mem.read a)
      ∧ t.bweStatus = s.bweStatus ||| 0x21 ∧ t.bweVersion = s.bweVersion ∧ BweFrame s t

/-- BWCALCS (46_bwe_bwcalcs.md, R260, R267, R268, R270, R271, R272) with its records ready and a display: the OUTPUT scalars are those of pass a, the
verdict compares them with the caller's limits, DZ and OV are set where an FXU operation of any pass or conversion raises them, and
OUTPUT slot 7 and 80 to 255, DCEIP, VBIOS and MODE are left (R266). That both limits are converted whatever the first comparison
gives, which shows in OV alone, is the model's choice (log entry 16). -/
def Obligations.BwcalcsVerdict : Prop :=
  OnlyWord .bwe 0x00000003 .bweBwcalcs
    ∧ ∀ s : State, CalcReady s.mem → modeCount s.mem ≠ 0 →
      let r := resultsOf (envOf s.mem) s.draws
      let v := loadVbios s.mem
      let done := (Machine.evaluate (envOf s.mem) (CalcState.start s.draws)).2
      ∃ (t : State) (dispclk sclk yclk maxDispclk maxSclk : W64) (supported : Bool), exec .bweBwcalcs s = .next t
        ∧ timesThousand r.dispclk = some dispclk ∧ timesThousand r.requiredSclk = some sclk
        ∧ timesThousand r.requiredYclk = some yclk ∧ timesThousand v.maxDispclk.high = some maxDispclk
        ∧ timesThousand v.sclk.high = some maxSclk
        ∧ supported = decide (dispclk.toInt ≤ maxDispclk.toInt ∧ sclk.toInt ≤ maxSclk.toInt)
        ∧ t.mem.slot 0x2800 = some (if supported then 1 else 0) ∧ t.mem.slot 0x2808 = some dispclk
        ∧ t.mem.slot 0x2810 = some sclk ∧ t.mem.slot 0x2818 = some yclk
        ∧ t.mem.slot 0x2820 = some (if r.stateChangeEnable.nbp then 1 else 0)
        ∧ t.mem.slot 0x2828 = some (if r.stateChangeEnable.cpup then 1 else 0)
        ∧ t.mem.slot 0x2830 = some (if r.stateChangeEnable.cpuc then 1 else 0)
        ∧ t.bweStatus = (if supported then s.bweStatus ||| 1 else s.bweStatus &&& ~~~1) ||| 0x30
          ||| (if done.dz then 4 else 0) ||| (if done.ov then 8 else 0)
        ∧ (∀ a, ¬(0x4000 ≤ a ∧ a < 0x8000) → ¬(0x2800 ≤ a ∧ a < 0x2838) → ¬(0x2840 ≤ a ∧ a < 0x2A80) →
          t.mem.read a = s.mem.read a)
        ∧ t.bweVersion = s.bweVersion ∧ BweFrame s t

/-- R263, R264, R265, R269: mark m of kind k of pipe q stands in OUTPUT slot 8 + 12q + 4k + m and is the watermark of graphics slot
4 + q in ns that CALC_CORE gives at operating point m, taken relative to the caller's VBIOS; RESULTS is what pass d left.
The free values of pass m are those its own counter selects (log entry 4). -/
def Obligations.MarksAndFinalResults : Prop :=
  ∀ s : State, CalcReady s.mem → modeCount s.mem ≠ 0 →
    ∃ (t : State) (draws : Pass → Nat), exec .bweBwcalcs s = .next t ∧ draws .a = s.draws
      ∧ let env := envOf s.mem
        let v := loadVbios s.mem
        let point : Pass → Vbios := fun
          | .a => v
          | .b => { v with sclk := { v.sclk with low := v.sclk.mid } }
          | .c => { v with yclk := { v.yclk with low := v.yclk.mid } }
          | .d => { v with sclk := ⟨v.sclk.high, v.sclk.high, v.sclk.high⟩,
                           yclk := ⟨v.yclk.high, v.yclk.high, v.yclk.high⟩ }
        let pass := fun p : Pass => resultsOf { env with vbios := point p } (draws p)
        (∀ (q : Fin 6) (p : Pass),
            t.mem.slot (0x2800 + 8 * (8 + 12 * q.val + p.index))
                = timesThousand (pass p).surfaces[graphicsSlot q].wm.urgent
              ∧ t.mem.slot (0x2800 + 8 * (8 + 12 * q.val + 4 + p.index))
                = timesThousand (pass p).surfaces[graphicsSlot q].wm.stutterExit
              ∧ t.mem.slot (0x2800 + 8 * (8 + 12 * q.val + 8 + p.index))
                = timesThousand (pass p).surfaces[graphicsSlot q].wm.nbpStateChange)
          ∧ ∀ k, k < 2048 → t.mem.slot (0x4000 + 8 * k) = some ((pass .d).slot k)

/-- R228, R272: a configuration that fails pass a's checks is not supported, wherever the caller's high dispclk maximum lies
below the sentinel. -/
def Obligations.FailedModeIsUnsupported : Prop :=
  ∀ s : State, CalcReady s.mem → modeCount s.mem ≠ 0 →
    (resultsOf (envOf s.mem) s.draws).modeCheck = .notok → 0 ≤ (loadVbios s.mem).maxDispclk.high.toInt →
    (loadVbios s.mem).maxDispclk.high.toInt < 9999 * 2 ^ 24 →
      ∃ t, exec .bweBwcalcs s = .next t ∧ t.mem.slot 0x2800 = some 0 ∧ bitSet t.bweStatus supportedBit = false
        ∧ t.mem.slot 0x2808 = some 9999000 ∧ t.mem.slot 0x2810 = some 9999000
end

