-- ==== Sys2Proof/Laws/Checks.lean ====
section
/-!
SUPPORT. How a part of RESULTS that the stages after a stage leave is read off after that stage, the pipe and mode checks of
stage 3 (45_bwe_calculate.md R213, R218) as the finished RESULTS shows them, and what one metric of stage 13 does (R230).
-/

namespace Sys2Proof.Machine

/-! ## RESULTS after the first stages -/

/-- The calculation after stage 2, from a cleared RESULTS. -/
def afterStage2 (env : CalcEnv) (draws : Nat) : CalcState := (stage2 env (stage1 env (CalcState.start draws)).2).2

/-- The calculation after stage 3. -/
def afterStage3 (env : CalcEnv) (draws : Nat) : CalcState := (stage3 env (afterStage2 env draws)).2

/-- A view that stages 4 to 13 leave shows what it showed after stage 3. -/
theorem resultsOf_view {β : Type} {g : Results → β} (env : CalcEnv) (draws : Nat) (h4 : Keeps g (stage4 env))
    (h5 : Keeps g (stage5 env)) (h6 : Keeps g (stage6 env)) (h7 : Keeps g (stage7 env)) (h8 : Keeps g (stage8 env))
    (h9 : ∀ t, Keeps g (stage9 env t)) (h10 : Keeps g (stage10 env)) (h11 : ∀ n, Keeps g (stage11 env n))
    (h12 : Keeps g (stage12 env)) (h13 : Keeps g (stage13 env)) :
    g (resultsOf env draws) = g (afterStage3 env draws).results := by
  unfold resultsOf calcCore
  simp only [CalcM.bind_apply]
  have e : (changeResults (fun _ => Results.zero) (CalcState.start draws)).2 = CalcState.start draws := rfl
  rw [h13, h12, h11, h10, h9, h8, h7, h6, h5, h4, e, afterStage3, afterStage2]

/-! ## The checks of stage 3 -/

/-- The loops of stage 3 leave a view that does not show what they write. -/
theorem stage3Loops_keep {β : Type} {g : Results → β} (env : CalcEnv) (hx : IgnoresExt g)
    (hs : IgnoresSurface g fun a b => b = { a with lbPartitions := b.lbPartitions })
    (hc : ∀ r h v l f o, g { r with
      hsrCheck := h, vsrCheck := v, lbSizeCheck := l, fbcCheck := f, rotationCheck := o } = g r) :
    Keeps g (forEnabled (checkRatios env)) ∧ Keeps g (forEnabled (checkLineBuffer env))
      ∧ Keeps g (forEnabled (checkFbc env)) ∧ Keeps g (forEnabled checkRotation) := by
  unfold checkRatios checkLineBuffer checkFbc checkRotation
  refine ⟨?_, ?_, ?_, ?_⟩
  all_goals
    repeat' with_reducible first
      | exact Keeps.pure _
      | exact Keeps.getSurface _
      | exact Keeps.fxOp _
      | exact Keeps.callStage _ _ hx
      | exact Keeps.changeSurface_of hs _ _ (fun _ => rfl)
      | exact Keeps.changeResults fun r => hc r _ _ _ _ _
      | apply Keeps.forEnabled
      | apply Keeps.bind
      | apply Keeps.ite
      | intro _

/-- The pipe check and the counts after stage 3 are those of the surfaces before it. -/
theorem stage3_pipeCheck (env : CalcEnv) (c : CalcState) :
    (stage3 env c).2.results.pipeCheck = (checkPipes env.dceip c.results).pipeCheck := by
  obtain ⟨h1, h2, h3, h4⟩ := stage3Loops_keep (g := Results.pipeCheck) env (fun _ _ => rfl) (fun _ _ _ _ => rfl)
    (fun _ _ _ _ _ _ => rfl)
  unfold stage3
  simp only [CalcM.bind_apply, changeResults_apply, checkMode]
  rw [h4, h3, h2, h1]

/-- A failed pipe check fails the mode check, which is what the finished RESULTS shows (R218). -/
theorem resultsOf_modeCheck_of_pipes (env : CalcEnv) (draws : Nat)
    (h : (checkPipes env.dceip (afterStage2 env draws).results).pipeCheck = .notok) :
    (resultsOf env draws).modeCheck = .notok := by
  have view : (resultsOf env draws).modeCheck = (afterStage3 env draws).results.modeCheck :=
    resultsOf_view (g := Results.modeCheck) env draws
      (stage4_keeps env (fun _ _ => rfl) (fun _ _ _ _ => rfl)) (stage5_keeps env (fun _ _ => rfl) (fun _ _ _ _ => rfl))
      (stage6_keeps env (fun _ _ => rfl) (fun _ _ _ _ => rfl) (fun _ _ => rfl))
      (stage7_keeps env (fun _ _ => rfl) (fun _ _ _ _ _ _ _ _ _ _ => rfl))
      (stage8_keeps env (fun _ _ => rfl) (fun _ _ _ => rfl)) (fun t => stage9_keeps env t (fun _ _ _ _ _ => rfl))
      (stage10_keeps env (fun _ _ => rfl) (fun _ _ _ _ _ _ _ _ => rfl)) (fun n => stage11_keeps env n (fun _ _ _ _ => rfl))
      (stage12_keeps env (fun _ _ => rfl) (fun _ _ _ _ => rfl)) (stage13_keeps env (fun _ _ => rfl) (fun _ _ _ _ _ _ _ _ => rfl))
  rw [view]
  have pipes : (stage3 env (afterStage2 env draws)).2.results.pipeCheck = .notok := (stage3_pipeCheck _ _).trans h
  have last : ∀ r : Results, r.pipeCheck = .notok → (checkMode r).modeCheck = .notok := fun r hr => by
    simp [checkMode, hr]
  unfold afterStage3
  generalize afterStage2 env draws = c at pipes ⊢
  unfold stage3 at pipes ⊢
  simp only [CalcM.bind_apply, changeResults_apply] at pipes ⊢
  generalize (forEnabled checkRotation _).2.results = r at pipes ⊢
  exact last r pipes

/-! ## The metrics of stage 13 (R230) -/

/-- Everything one metric does: it stores what its formula answers for the RESULTS it finds, and the formula may write extension
fields. -/
theorem metric_results (env : CalcEnv) (f : Config.Ext → Config.MetricReads → Config.StageProgram) (set : W64 → Results → Results)
    (c : CalcState) :
    ∃ v e, (metric env f set c).2.results = set v { c.results with ext := e }
      ∧ (callStage env (fun x => f x { results := c.results, vbios := env.vbios }) c).1 = v := by
  obtain ⟨e, he⟩ := callStage_results env (fun x => f x { results := c.results, vbios := env.vbios }) c
  refine ⟨_, e, ?_, rfl⟩
  unfold metric
  simp only [CalcM.bind_apply, changeResults_apply]
  exact congrArg _ he

/-! A metric's own number, and those before it, do not see what it stores. -/

@[simp] theorem Results.beforeMetric_ext (r : Results) (n : Nat) (e e' : List (Nat × W64)) :
    ({ r with ext := e' } : Results).beforeMetric n e = r.beforeMetric n e := rfl

theorem Results.beforeMetric_dramAccessEfficiency (r : Results) (n : Nat) (e : List (Nat × W64)) (v : W64) (h : n ≤ 0) :
    ({ r with dramAccessEfficiency := v } : Results).beforeMetric n e = r.beforeMetric n e := by
  unfold Results.beforeMetric; simp only [if_pos h]

theorem Results.beforeMetric_writeAccessEfficiency (r : Results) (n : Nat) (e : List (Nat × W64)) (v : W64) (h : n ≤ 1) :
    ({ r with writeAccessEfficiency := v } : Results).beforeMetric n e = r.beforeMetric n e := by
  unfold Results.beforeMetric; simp only [if_pos h]

theorem Results.beforeMetric_averageBandwidthNoCompression (r : Results) (n : Nat) (e : List (Nat × W64)) (v : W64) (h : n ≤ 2) :
    ({ r with averageBandwidthNoCompression := v } : Results).beforeMetric n e = r.beforeMetric n e := by
  unfold Results.beforeMetric; simp only [if_pos h]

theorem Results.beforeMetric_averageBandwidth (r : Results) (n : Nat) (e : List (Nat × W64)) (v : W64) (h : n ≤ 3) :
    ({ r with averageBandwidth := v } : Results).beforeMetric n e = r.beforeMetric n e := by
  unfold Results.beforeMetric; simp only [if_pos h]

theorem Results.beforeMetric_stutterEfficiency (r : Results) (n : Nat) (e : List (Nat × W64)) (v : W64) (h : n ≤ 4) :
    ({ r with stutterEfficiency := v } : Results).beforeMetric n e = r.beforeMetric n e := by
  unfold Results.beforeMetric; simp only [if_pos h]

theorem Results.beforeMetric_immediateFlipLatency (r : Results) (n : Nat) (e : List (Nat × W64)) (v : W64) (h : n ≤ 5) :
    ({ r with immediateFlipLatency := v } : Results).beforeMetric n e = r.beforeMetric n e := by
  unfold Results.beforeMetric; simp only [if_pos h]

theorem Results.beforeMetric_worstCaseLatencyNonDisplay (r : Results) (n : Nat) (e : List (Nat × W64)) (v : W64) (h : n ≤ 6) :
    ({ r with worstCaseLatencyNonDisplay := v } : Results).beforeMetric n e = r.beforeMetric n e := by
  unfold Results.beforeMetric; simp only [if_pos h]

end Sys2Proof.Machine
end

