-- ==== Sys2Proof/Laws/Encoding.lean ====
section
/-!
SUPPORT. Command words as numbers: the fields of a word, the words the encoder writes, and the words written field by
field in Sys2Proof/Safety.lean.
-/

namespace Sys2Proof.Machine

/-! ## Fields -/

@[simp] theorem field_toNat (w : W32) (lo n : Nat) : (field w lo n).toNat = w.toNat / 2 ^ lo % 2 ^ n := by
  simp [field, BitVec.extractLsb'_toNat, Nat.shiftRight_eq_div_pow]

theorem regField_val (w : W32) (lo : Nat) : (regField w lo).val = w.toNat / 2 ^ lo % 16 := field_toNat w lo 4

theorem append_toNat {m n : Nat} (x : BitVec m) (y : BitVec n) : (x ++ y).toNat = x.toNat * 2 ^ n + y.toNat := by
  rw [BitVec.toNat_append, ← Nat.shiftLeft_add_eq_or_of_lt y.isLt, Nat.shiftLeft_eq]

@[simp] theorem regBits_toNat (r : Reg) : (regBits r).toNat = r.val := rfl

/-! ## The words of the encoder -/

theorem encodeR3_toNat (op : BitVec 6) (rd rs1 rs2 : Reg) :
    (encodeR3 op rd rs1 rs2).toNat = op.toNat * 2 ^ 26 + rd.val * 2 ^ 22 + rs1.val * 2 ^ 18 + rs2.val * 2 ^ 14 := by
  have h : (encodeR3 op rd rs1 rs2).toNat = (op ++ regBits rd ++ regBits rs1 ++ regBits rs2 ++ 0#14).toNat := rfl
  rw [h]; simp only [append_toNat, regBits_toNat, BitVec.toNat_ofNat]; omega

theorem encodeR2_toNat (op : BitVec 6) (rd rs1 : Reg) :
    (encodeR2 op rd rs1).toNat = op.toNat * 2 ^ 26 + rd.val * 2 ^ 22 + rs1.val * 2 ^ 18 := by
  have h : (encodeR2 op rd rs1).toNat = (op ++ regBits rd ++ regBits rs1 ++ 0#18).toNat := rfl
  rw [h]; simp only [append_toNat, regBits_toNat, BitVec.toNat_ofNat]; omega

theorem encodeImm_toNat (op : BitVec 6) (rd : Reg) (imm16 : BitVec 16) :
    (encodeImm op rd imm16).toNat = op.toNat * 2 ^ 26 + rd.val * 2 ^ 22 + imm16.toNat := by
  have h : (encodeImm op rd imm16).toNat = (op ++ regBits rd ++ 0#6 ++ imm16).toNat := rfl
  rw [h]; simp only [append_toNat, regBits_toNat, BitVec.toNat_ofNat]; omega

theorem encodeBwe_toNat (cmd version : BitVec 4) (stoney : Bool) :
    (encodeBwe cmd version stoney).toNat = stoney.toNat * 2 ^ 8 + version.toNat * 2 ^ 4 + cmd.toNat := by
  have h : (encodeBwe cmd version stoney).toNat = (0#23 ++ BitVec.ofBool stoney ++ version ++ cmd).toNat := rfl
  rw [h]; simp only [append_toNat, BitVec.toNat_ofNat, BitVec.toNat_ofBool]; omega

/-! ## The words written field by field -/

theorem fxuWordR_eq (op : BitVec 6) (rd rs1 rs2 : Reg) : fxuWordR op.toNat rd rs1 rs2 = encodeR3 op rd rs1 rs2 := by
  apply BitVec.eq_of_toNat_eq
  have := op.isLt
  rw [encodeR3_toNat, fxuWordR, BitVec.toNat_ofNat, Nat.mod_eq_of_lt]; omega

theorem fxuWordR_eq_r2 (op : BitVec 6) (rd rs1 : Reg) : fxuWordR op.toNat rd rs1 0 = encodeR2 op rd rs1 := by
  apply BitVec.eq_of_toNat_eq
  have := op.isLt
  rw [encodeR2_toNat, fxuWordR, BitVec.toNat_ofNat, Nat.mod_eq_of_lt] <;> simp; omega

theorem fxuWordI_eq (op : BitVec 6) (rd : Reg) (imm16 : BitVec 16) : fxuWordI op.toNat rd imm16 = encodeImm op rd imm16 := by
  apply BitVec.eq_of_toNat_eq
  have := op.isLt
  rw [encodeImm_toNat, fxuWordI, BitVec.toNat_ofNat, Nat.mod_eq_of_lt]; omega

theorem bweWord_eq (cmd version : BitVec 4) (stoney : Bool) :
    bweWord cmd.toNat version stoney = encodeBwe cmd version stoney := by
  apply BitVec.eq_of_toNat_eq
  have h1 := cmd.isLt
  have h2 := version.isLt
  have h3 := Bool.toNat_le stoney
  rw [encodeBwe_toNat, bweWord, BitVec.toNat_ofNat, Nat.mod_eq_of_lt] <;> omega

/-! ## Decoding one row -/

theorem decodeR3_encode (op : BitVec 6) (rd rs1 rs2 : Reg) (mk : Reg → Reg → Reg → Instr) :
    decodeR3 (encodeR3 op rd rs1 rs2) mk = .ok (mk rd rs1 rs2) := by
  have h := encodeR3_toNat op rd rs1 rs2
  have h1 : rdField (encodeR3 op rd rs1 rs2) = rd := Fin.ext (by rw [rdField, regField_val, h]; omega)
  have h2 : rs1Field (encodeR3 op rd rs1 rs2) = rs1 := Fin.ext (by rw [rs1Field, regField_val, h]; omega)
  have h3 : rs2Field (encodeR3 op rd rs1 rs2) = rs2 := Fin.ext (by rw [rs2Field, regField_val, h]; omega)
  have h4 : Format.zeroFieldsOk .r3 (encodeR3 op rd rs1 rs2) = true := by
    simp only [Format.zeroFieldsOk, beq_iff_eq]
    exact BitVec.eq_of_toNat_eq (by rw [field_toNat, h]; simp; omega)
  simp [decodeR3, checkedWord, h1, h2, h3, h4]

theorem decodeR2_encode (op : BitVec 6) (rd rs1 : Reg) (mk : Reg → Reg → Instr) :
    decodeR2 (encodeR2 op rd rs1) mk = .ok (mk rd rs1) := by
  have h := encodeR2_toNat op rd rs1
  have h1 : rdField (encodeR2 op rd rs1) = rd := Fin.ext (by rw [rdField, regField_val, h]; omega)
  have h2 : rs1Field (encodeR2 op rd rs1) = rs1 := Fin.ext (by rw [rs1Field, regField_val, h]; omega)
  have h4 : Format.zeroFieldsOk .r2 (encodeR2 op rd rs1) = true := by
    simp only [Format.zeroFieldsOk, beq_iff_eq]
    exact BitVec.eq_of_toNat_eq (by rw [field_toNat, h]; simp; omega)
  simp [decodeR2, checkedWord, h1, h2, h4]

theorem decodeImm_encode (op : BitVec 6) (rd : Reg) (imm16 : BitVec 16) (mk : Reg → BitVec 16 → Instr) :
    decodeImm (encodeImm op rd imm16) mk = .ok (mk rd imm16) := by
  have h := encodeImm_toNat op rd imm16
  have h0 := imm16.isLt
  have h1 : rdField (encodeImm op rd imm16) = rd := Fin.ext (by rw [rdField, regField_val, h]; omega)
  have h2 : immField (encodeImm op rd imm16) = imm16 :=
    BitVec.eq_of_toNat_eq (by rw [immField, field_toNat, h]; omega)
  have h4 : Format.zeroFieldsOk .imm (encodeImm op rd imm16) = true := by
    simp only [Format.zeroFieldsOk, beq_iff_eq]
    exact BitVec.eq_of_toNat_eq (by rw [field_toNat, h]; simp; omega)
  simp [decodeImm, checkedWord, h1, h2, h4]

theorem opField_encodeR3 (op : BitVec 6) (rd rs1 rs2 : Reg) : (opField (encodeR3 op rd rs1 rs2)).toNat = op.toNat := by
  have := op.isLt
  rw [opField, field_toNat, encodeR3_toNat]; omega

theorem opField_encodeR2 (op : BitVec 6) (rd rs1 : Reg) : (opField (encodeR2 op rd rs1)).toNat = op.toNat := by
  have := op.isLt
  rw [opField, field_toNat, encodeR2_toNat]; omega

theorem opField_encodeImm (op : BitVec 6) (rd : Reg) (imm16 : BitVec 16) :
    (opField (encodeImm op rd imm16)).toNat = op.toNat := by
  have := op.isLt
  have := imm16.isLt
  rw [opField, field_toNat, encodeImm_toNat]; omega

end Sys2Proof.Machine
end

