-- ==== Sys2Proof/Laws/State.lean ====
section
/-!
SUPPORT. One lemma for each field and each update of State, true by computation, so that no proof unfolds an update.
-/

namespace Sys2Proof.Machine

/-! ## writeFr -/

@[simp] theorem State.writeFr_fr (s : State) (r : Reg) (v : W64) :
    (s.writeFr r v).fr = s.fr.set r ⟨v, true, true⟩ := rfl

@[simp] theorem State.writeFr_fxuStatus (s : State) (r : Reg) (v : W64) :
    (s.writeFr r v).fxuStatus = s.fxuStatus := rfl

@[simp] theorem State.writeFr_bweStatus (s : State) (r : Reg) (v : W64) :
    (s.writeFr r v).bweStatus = s.bweStatus := rfl

@[simp] theorem State.writeFr_bweVersion (s : State) (r : Reg) (v : W64) :
    (s.writeFr r v).bweVersion = s.bweVersion := rfl

@[simp] theorem State.writeFr_mem (s : State) (r : Reg) (v : W64) : (s.writeFr r v).mem = s.mem := rfl

@[simp] theorem State.writeFr_pending (s : State) (r : Reg) (v : W64) : (s.writeFr r v).pending = s.pending := rfl

@[simp] theorem State.writeFr_response (s : State) (r : Reg) (v : W64) : (s.writeFr r v).response = s.response := rfl

@[simp] theorem State.writeFr_draws (s : State) (r : Reg) (v : W64) : (s.writeFr r v).draws = s.draws := rfl

@[simp] theorem State.writeFr_launchFault (s : State) (r : Reg) (v : W64) :
    (s.writeFr r v).launchFault = s.launchFault := rfl

/-! ## touchFr -/

@[simp] theorem State.touchFr_fr (s : State) (r : Reg) : (s.touchFr r).fr = s.fr := rfl

@[simp] theorem State.touchFr_fxuStatus (s : State) (r : Reg) : (s.touchFr r).fxuStatus = s.fxuStatus := rfl

@[simp] theorem State.touchFr_bweStatus (s : State) (r : Reg) : (s.touchFr r).bweStatus = s.bweStatus := rfl

@[simp] theorem State.touchFr_bweVersion (s : State) (r : Reg) : (s.touchFr r).bweVersion = s.bweVersion := rfl

@[simp] theorem State.touchFr_mem (s : State) (r : Reg) : (s.touchFr r).mem = s.mem := rfl

@[simp] theorem State.touchFr_pending (s : State) (r : Reg) : (s.touchFr r).pending = s.pending := rfl

@[simp] theorem State.touchFr_response (s : State) (r : Reg) : (s.touchFr r).response = s.response := rfl

@[simp] theorem State.touchFr_draws (s : State) (r : Reg) : (s.touchFr r).draws = s.draws := rfl

@[simp] theorem State.touchFr_launchFault (s : State) (r : Reg) :
    (s.touchFr r).launchFault = (s.launchFault || !s.fr[r].written) := rfl

/-! ## countDraw -/

@[simp] theorem State.countDraw_fr (s : State) : (s.countDraw).fr = s.fr := rfl

@[simp] theorem State.countDraw_fxuStatus (s : State) : (s.countDraw).fxuStatus = s.fxuStatus := rfl

@[simp] theorem State.countDraw_bweStatus (s : State) : (s.countDraw).bweStatus = s.bweStatus := rfl

@[simp] theorem State.countDraw_bweVersion (s : State) : (s.countDraw).bweVersion = s.bweVersion := rfl

@[simp] theorem State.countDraw_mem (s : State) : (s.countDraw).mem = s.mem := rfl

@[simp] theorem State.countDraw_pending (s : State) : (s.countDraw).pending = s.pending := rfl

@[simp] theorem State.countDraw_response (s : State) : (s.countDraw).response = s.response := rfl

@[simp] theorem State.countDraw_draws (s : State) : (s.countDraw).draws = s.draws + 1 := rfl

@[simp] theorem State.countDraw_launchFault (s : State) : (s.countDraw).launchFault = s.launchFault := rfl

/-! ## raiseFxu -/

@[simp] theorem State.raiseFxu_fr (s : State) (c : Cond) : (s.raiseFxu c).fr = s.fr := rfl

@[simp] theorem State.raiseFxu_fxuStatus (s : State) (c : Cond) :
    (s.raiseFxu c).fxuStatus = s.fxuStatus ||| fxuStatusBit c := rfl

@[simp] theorem State.raiseFxu_bweStatus (s : State) (c : Cond) : (s.raiseFxu c).bweStatus = s.bweStatus := rfl

@[simp] theorem State.raiseFxu_bweVersion (s : State) (c : Cond) : (s.raiseFxu c).bweVersion = s.bweVersion := rfl

@[simp] theorem State.raiseFxu_mem (s : State) (c : Cond) : (s.raiseFxu c).mem = s.mem := rfl

@[simp] theorem State.raiseFxu_pending (s : State) (c : Cond) : (s.raiseFxu c).pending = s.pending := rfl

@[simp] theorem State.raiseFxu_response (s : State) (c : Cond) : (s.raiseFxu c).response = s.response := rfl

@[simp] theorem State.raiseFxu_draws (s : State) (c : Cond) : (s.raiseFxu c).draws = s.draws := rfl

@[simp] theorem State.raiseFxu_launchFault (s : State) (c : Cond) : (s.raiseFxu c).launchFault = s.launchFault := rfl

/-! ## raiseBwe -/

@[simp] theorem State.raiseBwe_fr (s : State) (c : Cond) : (s.raiseBwe c).fr = s.fr := rfl

@[simp] theorem State.raiseBwe_fxuStatus (s : State) (c : Cond) : (s.raiseBwe c).fxuStatus = s.fxuStatus := rfl

@[simp] theorem State.raiseBwe_bweStatus (s : State) (c : Cond) :
    (s.raiseBwe c).bweStatus = s.bweStatus ||| bweStatusBit c := rfl

@[simp] theorem State.raiseBwe_bweVersion (s : State) (c : Cond) : (s.raiseBwe c).bweVersion = s.bweVersion := rfl

@[simp] theorem State.raiseBwe_mem (s : State) (c : Cond) : (s.raiseBwe c).mem = s.mem := rfl

@[simp] theorem State.raiseBwe_pending (s : State) (c : Cond) : (s.raiseBwe c).pending = s.pending := rfl

@[simp] theorem State.raiseBwe_response (s : State) (c : Cond) : (s.raiseBwe c).response = s.response := rfl

@[simp] theorem State.raiseBwe_draws (s : State) (c : Cond) : (s.raiseBwe c).draws = s.draws := rfl

@[simp] theorem State.raiseBwe_launchFault (s : State) (c : Cond) : (s.raiseBwe c).launchFault = s.launchFault := rfl

/-! ## writeFrHalf -/

@[simp] theorem State.writeFrHalf_fr (s : State) (r : Reg) (high : Bool) (v : W32) :
    (s.writeFrHalf r high v).fr = s.fr.set r (if high then s.fr[r].withHigh v else s.fr[r].withLow v) := rfl

@[simp] theorem State.writeFrHalf_fxuStatus (s : State) (r : Reg) (high : Bool) (v : W32) :
    (s.writeFrHalf r high v).fxuStatus = s.fxuStatus := rfl

@[simp] theorem State.writeFrHalf_bweStatus (s : State) (r : Reg) (high : Bool) (v : W32) :
    (s.writeFrHalf r high v).bweStatus = s.bweStatus := rfl

@[simp] theorem State.writeFrHalf_bweVersion (s : State) (r : Reg) (high : Bool) (v : W32) :
    (s.writeFrHalf r high v).bweVersion = s.bweVersion := rfl

@[simp] theorem State.writeFrHalf_mem (s : State) (r : Reg) (high : Bool) (v : W32) :
    (s.writeFrHalf r high v).mem = s.mem := rfl

@[simp] theorem State.writeFrHalf_pending (s : State) (r : Reg) (high : Bool) (v : W32) :
    (s.writeFrHalf r high v).pending = s.pending := rfl

@[simp] theorem State.writeFrHalf_response (s : State) (r : Reg) (high : Bool) (v : W32) :
    (s.writeFrHalf r high v).response = s.response := rfl

@[simp] theorem State.writeFrHalf_draws (s : State) (r : Reg) (high : Bool) (v : W32) :
    (s.writeFrHalf r high v).draws = s.draws := rfl

@[simp] theorem State.writeFrHalf_launchFault (s : State) (r : Reg) (high : Bool) (v : W32) :
    (s.writeFrHalf r high v).launchFault = s.launchFault := rfl

/-! ## storeResults -/

@[simp] theorem State.storeResults_fr (s : State) (r : Results) : (s.storeResults r).fr = s.fr := rfl

@[simp] theorem State.storeResults_fxuStatus (s : State) (r : Results) :
    (s.storeResults r).fxuStatus = s.fxuStatus := rfl

@[simp] theorem State.storeResults_bweStatus (s : State) (r : Results) :
    (s.storeResults r).bweStatus = s.bweStatus := rfl

@[simp] theorem State.storeResults_bweVersion (s : State) (r : Results) :
    (s.storeResults r).bweVersion = s.bweVersion := rfl

@[simp] theorem State.storeResults_mem (s : State) (r : Results) :
    (s.storeResults r).mem = s.mem.storeSlots (slotOffset resultsBase 0) r.slots := rfl

@[simp] theorem State.storeResults_pending (s : State) (r : Results) : (s.storeResults r).pending = s.pending := rfl

@[simp] theorem State.storeResults_response (s : State) (r : Results) :
    (s.storeResults r).response = s.response := rfl

@[simp] theorem State.storeResults_draws (s : State) (r : Results) : (s.storeResults r).draws = s.draws := rfl

@[simp] theorem State.storeResults_launchFault (s : State) (r : Results) :
    (s.storeResults r).launchFault = s.launchFault := rfl

/-! ## storeOutput -/

@[simp] theorem State.storeOutput_fr (s : State) (o : Output) : (s.storeOutput o).fr = s.fr := rfl

@[simp] theorem State.storeOutput_fxuStatus (s : State) (o : Output) :
    (s.storeOutput o).fxuStatus = s.fxuStatus := rfl

@[simp] theorem State.storeOutput_bweStatus (s : State) (o : Output) :
    (s.storeOutput o).bweStatus = s.bweStatus := rfl

@[simp] theorem State.storeOutput_bweVersion (s : State) (o : Output) :
    (s.storeOutput o).bweVersion = s.bweVersion := rfl

@[simp] theorem State.storeOutput_mem (s : State) (o : Output) :
    (s.storeOutput o).mem = (s.mem.storeSlots (slotOffset outputBase 0) o.scalars).storeSlots (slotOffset outputBase 8) o.marks := rfl

@[simp] theorem State.storeOutput_pending (s : State) (o : Output) : (s.storeOutput o).pending = s.pending := rfl

@[simp] theorem State.storeOutput_response (s : State) (o : Output) : (s.storeOutput o).response = s.response := rfl

@[simp] theorem State.storeOutput_draws (s : State) (o : Output) : (s.storeOutput o).draws = s.draws := rfl

@[simp] theorem State.storeOutput_launchFault (s : State) (o : Output) :
    (s.storeOutput o).launchFault = s.launchFault := rfl

/-! ## setResValid -/

@[simp] theorem State.setResValid_fr (s : State) : (s.setResValid).fr = s.fr := rfl

@[simp] theorem State.setResValid_fxuStatus (s : State) : (s.setResValid).fxuStatus = s.fxuStatus := rfl

@[simp] theorem State.setResValid_bweStatus (s : State) :
    (s.setResValid).bweStatus = s.bweStatus ||| resValidBit := rfl

@[simp] theorem State.setResValid_bweVersion (s : State) : (s.setResValid).bweVersion = s.bweVersion := rfl

@[simp] theorem State.setResValid_mem (s : State) : (s.setResValid).mem = s.mem := rfl

@[simp] theorem State.setResValid_pending (s : State) : (s.setResValid).pending = s.pending := rfl

@[simp] theorem State.setResValid_response (s : State) : (s.setResValid).response = s.response := rfl

@[simp] theorem State.setResValid_draws (s : State) : (s.setResValid).draws = s.draws := rfl

@[simp] theorem State.setResValid_launchFault (s : State) : (s.setResValid).launchFault = s.launchFault := rfl

/-! ## setVerdict -/

@[simp] theorem State.setVerdict_fr (s : State) (b : Bool) : (s.setVerdict b).fr = s.fr := rfl

@[simp] theorem State.setVerdict_fxuStatus (s : State) (b : Bool) : (s.setVerdict b).fxuStatus = s.fxuStatus := rfl

@[simp] theorem State.setVerdict_bweStatus (s : State) (b : Bool) :
    (s.setVerdict b).bweStatus = (assignBit s.bweStatus supportedBit b ||| outValidBit) := rfl

@[simp] theorem State.setVerdict_bweVersion (s : State) (b : Bool) : (s.setVerdict b).bweVersion = s.bweVersion := rfl

@[simp] theorem State.setVerdict_mem (s : State) (b : Bool) : (s.setVerdict b).mem = s.mem := rfl

@[simp] theorem State.setVerdict_pending (s : State) (b : Bool) : (s.setVerdict b).pending = s.pending := rfl

@[simp] theorem State.setVerdict_response (s : State) (b : Bool) : (s.setVerdict b).response = s.response := rfl

@[simp] theorem State.setVerdict_draws (s : State) (b : Bool) : (s.setVerdict b).draws = s.draws := rfl

@[simp] theorem State.setVerdict_launchFault (s : State) (b : Bool) :
    (s.setVerdict b).launchFault = s.launchFault := rfl

/-! ## loadTables -/

@[simp] theorem State.loadTables_fr (s : State) (version : BitVec 4) (stoney : Bool) :
    (s.loadTables version stoney).fr = s.fr := rfl

@[simp] theorem State.loadTables_fxuStatus (s : State) (version : BitVec 4) (stoney : Bool) :
    (s.loadTables version stoney).fxuStatus = s.fxuStatus := rfl

@[simp] theorem State.loadTables_bweStatus (s : State) (version : BitVec 4) (stoney : Bool) :
    (s.loadTables version stoney).bweStatus = s.bweStatus := rfl

@[simp] theorem State.loadTables_bweVersion (s : State) (version : BitVec 4) (stoney : Bool) :
    (s.loadTables version stoney).bweVersion = versionWord version (stoney && version == 1) := rfl

@[simp] theorem State.loadTables_mem (s : State) (version : BitVec 4) (stoney : Bool) :
    (s.loadTables version stoney).mem = (s.mem.storeSlots (slotOffset dceipBase 0) (initDceip version stoney)).storeSlots (slotOffset vbiosBase 0) (initVbios version) := rfl

@[simp] theorem State.loadTables_pending (s : State) (version : BitVec 4) (stoney : Bool) :
    (s.loadTables version stoney).pending = s.pending := rfl

@[simp] theorem State.loadTables_response (s : State) (version : BitVec 4) (stoney : Bool) :
    (s.loadTables version stoney).response = s.response := rfl

@[simp] theorem State.loadTables_draws (s : State) (version : BitVec 4) (stoney : Bool) :
    (s.loadTables version stoney).draws = s.draws := rfl

@[simp] theorem State.loadTables_launchFault (s : State) (version : BitVec 4) (stoney : Bool) :
    (s.loadTables version stoney).launchFault = s.launchFault := rfl

/-! ## beginWrite -/

@[simp] theorem State.beginWrite_fr (s : State) : (s.beginWrite).fr = s.fr := rfl

@[simp] theorem State.beginWrite_fxuStatus (s : State) : (s.beginWrite).fxuStatus = s.fxuStatus := rfl

@[simp] theorem State.beginWrite_bweStatus (s : State) : (s.beginWrite).bweStatus = s.bweStatus := rfl

@[simp] theorem State.beginWrite_bweVersion (s : State) : (s.beginWrite).bweVersion = s.bweVersion := rfl

@[simp] theorem State.beginWrite_mem (s : State) : (s.beginWrite).mem = s.mem := rfl

@[simp] theorem State.beginWrite_pending (s : State) : (s.beginWrite).pending = s.pending := rfl

@[simp] theorem State.beginWrite_response (s : State) : (s.beginWrite).response = none := rfl

@[simp] theorem State.beginWrite_draws (s : State) : (s.beginWrite).draws = s.draws + 1 := rfl

@[simp] theorem State.beginWrite_launchFault (s : State) : (s.beginWrite).launchFault = s.launchFault := rfl

/-! ## resetKeepingHost -/

@[simp] theorem State.resetKeepingHost_fr (s : State) :
    (s.resetKeepingHost).fr = Vector.replicate 16 FReg.reset := rfl

@[simp] theorem State.resetKeepingHost_fxuStatus (s : State) : (s.resetKeepingHost).fxuStatus = 0 := rfl

@[simp] theorem State.resetKeepingHost_bweStatus (s : State) : (s.resetKeepingHost).bweStatus = 0 := rfl

@[simp] theorem State.resetKeepingHost_bweVersion (s : State) : (s.resetKeepingHost).bweVersion = 0 := rfl

@[simp] theorem State.resetKeepingHost_mem (s : State) : (s.resetKeepingHost).mem = [] := rfl

@[simp] theorem State.resetKeepingHost_pending (s : State) : (s.resetKeepingHost).pending = s.pending := rfl

@[simp] theorem State.resetKeepingHost_response (s : State) : (s.resetKeepingHost).response = none := rfl

@[simp] theorem State.resetKeepingHost_draws (s : State) : (s.resetKeepingHost).draws = s.draws + 1 := rfl

@[simp] theorem State.resetKeepingHost_launchFault (s : State) : (s.resetKeepingHost).launchFault = false := rfl

/-! ## raiseBweIf and recordCalc -/

@[simp] theorem State.raiseBweIf_fr (s : State) (b : Bool) (c : Cond) : (s.raiseBweIf b c).fr = s.fr := by
  cases b <;> rfl

@[simp] theorem State.raiseBweIf_fxuStatus (s : State) (b : Bool) (c : Cond) : (s.raiseBweIf b c).fxuStatus = s.fxuStatus := by
  cases b <;> rfl

@[simp] theorem State.raiseBweIf_bweStatus (s : State) (b : Bool) (c : Cond) :
    (s.raiseBweIf b c).bweStatus = if b then s.bweStatus ||| bweStatusBit c else s.bweStatus := by cases b <;> rfl

@[simp] theorem State.raiseBweIf_bweVersion (s : State) (b : Bool) (c : Cond) : (s.raiseBweIf b c).bweVersion = s.bweVersion := by
  cases b <;> rfl

@[simp] theorem State.raiseBweIf_mem (s : State) (b : Bool) (c : Cond) : (s.raiseBweIf b c).mem = s.mem := by
  cases b <;> rfl

@[simp] theorem State.raiseBweIf_pending (s : State) (b : Bool) (c : Cond) : (s.raiseBweIf b c).pending = s.pending := by
  cases b <;> rfl

@[simp] theorem State.raiseBweIf_response (s : State) (b : Bool) (c : Cond) : (s.raiseBweIf b c).response = s.response := by
  cases b <;> rfl

@[simp] theorem State.raiseBweIf_draws (s : State) (b : Bool) (c : Cond) : (s.raiseBweIf b c).draws = s.draws := by
  cases b <;> rfl

@[simp] theorem State.raiseBweIf_launchFault (s : State) (b : Bool) (c : Cond) : (s.raiseBweIf b c).launchFault = s.launchFault := by
  cases b <;> rfl

@[simp] theorem State.recordCalc_fr (s : State) (c : CalcState) : (s.recordCalc c).fr = s.fr := by
  simp [State.recordCalc]

@[simp] theorem State.recordCalc_fxuStatus (s : State) (c : CalcState) : (s.recordCalc c).fxuStatus = s.fxuStatus := by
  simp [State.recordCalc]

@[simp] theorem State.recordCalc_bweStatus (s : State) (c : CalcState) :
    (s.recordCalc c).bweStatus = ((s.raiseBweIf c.dz .dz).raiseBweIf c.ov .ov).bweStatus := rfl

@[simp] theorem State.recordCalc_bweVersion (s : State) (c : CalcState) : (s.recordCalc c).bweVersion = s.bweVersion := by
  simp [State.recordCalc]

@[simp] theorem State.recordCalc_mem (s : State) (c : CalcState) : (s.recordCalc c).mem = s.mem := by
  simp [State.recordCalc]

@[simp] theorem State.recordCalc_pending (s : State) (c : CalcState) : (s.recordCalc c).pending = s.pending := by
  simp [State.recordCalc]

@[simp] theorem State.recordCalc_response (s : State) (c : CalcState) : (s.recordCalc c).response = s.response := by
  simp [State.recordCalc]

@[simp] theorem State.recordCalc_draws (s : State) (c : CalcState) : (s.recordCalc c).draws = c.draws := rfl

@[simp] theorem State.recordCalc_launchFault (s : State) (c : CalcState) : (s.recordCalc c).launchFault = s.launchFault := by
  simp [State.recordCalc]

/-! ## retire -/

@[simp] theorem State.retire_bweStatus (s : State) (rd : Reg) (x : FxResult) : (s.retire rd x).bweStatus = s.bweStatus := by
  cases x <;> rfl

@[simp] theorem State.retire_bweVersion (s : State) (rd : Reg) (x : FxResult) : (s.retire rd x).bweVersion = s.bweVersion := by
  cases x <;> rfl

@[simp] theorem State.retire_mem (s : State) (rd : Reg) (x : FxResult) : (s.retire rd x).mem = s.mem := by
  cases x <;> rfl

@[simp] theorem State.retire_pending (s : State) (rd : Reg) (x : FxResult) : (s.retire rd x).pending = s.pending := by
  cases x <;> rfl

@[simp] theorem State.retire_response (s : State) (rd : Reg) (x : FxResult) : (s.retire rd x).response = s.response := by
  cases x <;> rfl

@[simp] theorem State.retire_launchFault (s : State) (rd : Reg) (x : FxResult) : (s.retire rd x).launchFault = s.launchFault := by
  cases x <;> rfl

end Sys2Proof.Machine
end

