-- ==== Sys2Proof/Laws/Fxu.lean ====
section
/-!
SUPPORT. What each shared operation of the FXU can do: writing a register, marking a source as read, retiring a result,
and the operand forms over them.
-/

namespace Sys2Proof.Machine

/-! ## Registers -/

@[simp] theorem State.frValue_writeFr_self (s : State) (r : Reg) (v : W64) : (s.writeFr r v).frValue r = v := by
  simp [State.frValue]

theorem State.fr_writeFr_other (s : State) (r q : Reg) (v : W64) (h : q ≠ r) : (s.writeFr r v).fr[q] = s.fr[q] := by
  have : (r : Nat) ≠ q := fun e => h (Fin.ext e.symm)
  simp [this]

theorem State.frValue_writeFr_other (s : State) (r q : Reg) (v : W64) (h : q ≠ r) :
    (s.writeFr r v).frValue q = s.frValue q := by
  simp only [State.frValue, State.fr_writeFr_other s r q v h]

@[simp] theorem State.written_writeFr_self (s : State) (r : Reg) (v : W64) : (s.writeFr r v).fr[r].written = true := by
  simp [FReg.written]

@[simp] theorem State.frValue_touchFr (s : State) (r q : Reg) : (s.touchFr r).frValue q = s.frValue q := rfl

/-- A source that holds a value leaves no mark. -/
theorem State.touchFr_of_holdsValue (s : State) (r : Reg) (h : s.holdsValue r) : s.touchFr r = s := by
  have h' : s.fr[r].written = true := h
  cases s
  simp_all [State.touchFr]

/-! ## Retiring (40_fxu_arith.md R109) -/

theorem State.retire_exact (s : State) (rd : Reg) (v : W64) : FxuWrites s (s.retire rd (.exact v)) rd v 0 where
  value := by simp [State.retire]
  written := State.written_writeFr_self ..
  others := fun r h => State.fr_writeFr_other s rd r v h
  status := by simp [State.retire]
  frame := ⟨fun _ => rfl, rfl, rfl, rfl, rfl⟩

theorem State.retire_overflow (s : State) (rd : Reg) (v : W64) :
    FxuWrites s (s.retire rd (.overflow v)) rd v (fxuStatusBit .ov) where
  value := State.frValue_writeFr_self s rd v
  written := State.written_writeFr_self ..
  others := fun r h => State.fr_writeFr_other s rd r v h
  status := rfl
  frame := ⟨fun _ => rfl, rfl, rfl, rfl, rfl⟩

theorem State.retire_divByZero (s : State) (rd : Reg) :
    FxuWrites s (s.retire rd .divByZero) rd (Config.draw s.draws) (fxuStatusBit .dz) where
  value := State.frValue_writeFr_self s rd _
  written := State.written_writeFr_self ..
  others := fun r h => State.fr_writeFr_other s rd r _ h
  status := rfl
  frame := ⟨fun _ => rfl, rfl, rfl, rfl, rfl⟩

/-- The status bits a result raises. -/
def FxResult.raised : FxResult → W32
  | .exact _ => 0
  | .overflow _ => fxuStatusBit .ov
  | .divByZero => fxuStatusBit .dz

/-- The value a result writes, the free value of the counter for a division by zero. -/
def FxResult.valueAt (draws : Nat) : FxResult → W64
  | .exact v => v
  | .overflow v => v
  | .divByZero => Config.draw draws

/-- Everything retiring does. -/
theorem State.retire_writes (s : State) (rd : Reg) (x : FxResult) :
    FxuWrites s (s.retire rd x) rd (x.valueAt s.draws) x.raised := by
  cases x
  · exact State.retire_exact ..
  · exact State.retire_overflow ..
  · exact State.retire_divByZero ..

/-- A relation that a command begins from a state whose sources are marked as read. -/
theorem FxuWrites.of_touched {s s' t : State} {rd : Reg} {v : W64} {raised : W32} (h : FxuWrites s' t rd v raised)
    (fr : s'.fr = s.fr) (status : s'.fxuStatus = s.fxuStatus) (frame : FxuFrame s s') : FxuWrites s t rd v raised where
  value := h.value
  written := h.written
  others := fun r hr => by rw [h.others r hr, fr]
  status := by rw [h.status, status]
  frame :=
    ⟨fun a => (h.frame.memory a).trans (frame.memory a), h.frame.bweStatus.trans frame.bweStatus,
      h.frame.bweVersion.trans frame.bweVersion, h.frame.pending.trans frame.pending,
      h.frame.response.trans frame.response⟩

/-! ## Operand forms -/

/-- Everything a command with two register sources does. -/
theorem State.fxu2_writes (s : State) (f : W64 → W64 → FxResult) (rd rs1 rs2 : Reg) :
    FxuWrites s (s.fxu2 f rd rs1 rs2) rd ((f (s.frValue rs1) (s.frValue rs2)).valueAt s.draws)
      (f (s.frValue rs1) (s.frValue rs2)).raised :=
  FxuWrites.of_touched (State.retire_writes ((s.touchFr rs1).touchFr rs2) rd _) rfl rfl ⟨fun _ => rfl, rfl, rfl, rfl, rfl⟩

/-- Everything a command with one register source does. -/
theorem State.fxu1_writes (s : State) (f : W64 → FxResult) (rd rs1 : Reg) :
    FxuWrites s (s.fxu1 f rd rs1) rd ((f (s.frValue rs1)).valueAt s.draws) (f (s.frValue rs1)).raised :=
  FxuWrites.of_touched (State.retire_writes (s.touchFr rs1) rd _) rfl rfl ⟨fun _ => rfl, rfl, rfl, rfl, rfl⟩

@[simp] theorem State.fxu2_launchFault (s : State) (f : W64 → W64 → FxResult) (rd rs1 rs2 : Reg) :
    (s.fxu2 f rd rs1 rs2).launchFault = ((s.launchFault || !s.fr[rs1].written) || !s.fr[rs2].written) := by
  simp [State.fxu2]

@[simp] theorem State.fxu1_launchFault (s : State) (f : W64 → FxResult) (rd rs1 : Reg) :
    (s.fxu1 f rd rs1).launchFault = (s.launchFault || !s.fr[rs1].written) := by simp [State.fxu1]

/-! ## Results -/

@[simp] theorem FxResult.valueAt_exact (n : Nat) (v : W64) : (FxResult.exact v).valueAt n = v := rfl
@[simp] theorem FxResult.raised_exact (v : W64) : (FxResult.exact v).raised = 0 := rfl

/-- A result that is tested for overflow. -/
theorem Fx.valueAt_withOv (n : Nat) (ov : Bool) (v : W64) : (Fx.withOv ov v).valueAt n = v := by cases ov <;> rfl

theorem Fx.raised_withOv (ov : Bool) (v : W64) : (Fx.withOv ov v).raised = if ov then fxuStatusBit .ov else 0 := by
  cases ov <;> rfl

theorem Fx.toInt_wrap (v : Int) : (Fx.wrap v).toInt = v.bmod (2 ^ 64) := by simp [Fx.wrap, BitVec.toInt_ofInt]

/-- A word that an integer in range narrows to reads as that integer. -/
theorem Fx.toInt_wrap_of_fits (v : Int) (h : fits64 v = true) : (Fx.wrap v).toInt = v := by
  rw [Fx.toInt_wrap]
  simp only [fits64, decide_eq_true_eq] at h
  rw [Int.bmod_eq_of_le] <;> omega

theorem Fx.wrap_toInt (a : W64) : Fx.wrap a.toInt = a := by simp [Fx.wrap]

theorem Fx.mag_le (a : W64) : Fx.mag a ≤ 2 ^ 63 := by
  have h1 := BitVec.toInt_lt (x := a)
  have h2 := BitVec.le_toInt (x := a)
  simp only [Fx.mag]; omega

theorem Fx.mag_eq_zero (a : W64) : Fx.mag a = 0 ↔ a = 0 := by
  constructor
  · intro h
    have : a.toInt = 0 := by simpa [Fx.mag] using h
    exact BitVec.eq_of_toInt_eq (by simpa using this)
  · rintro rfl; rfl

end Sys2Proof.Machine
end

