-- ==== Sys2Proof/Laws/Memory.lean ====
section
/-!
SUPPORT. What every memory operation does to a read, and that each keeps the canonical form.
-/

namespace Sys2Proof.Machine

/-! ## Reading one byte -/

@[simp] theorem Memory.read_nil (a : Nat) : Memory.read [] a = none := rfl

theorem Memory.read_append (m m' : Memory) (a : Nat) :
    Memory.read (m ++ m') a = (Memory.read m a).or (Memory.read m' a) := by
  induction m with
  | nil => rfl
  | cons c m ih =>
    simp only [List.cons_append, Memory.read]
    split
    · rfl
    · exact ih

theorem Memory.read_filter_of_true (m : Memory) (p : Host.Cell → Bool) (a : Nat) (h : ∀ b, p (a, b) = true) :
    Memory.read (m.filter p) a = Memory.read m a := by
  induction m with
  | nil => rfl
  | cons c m ih =>
    obtain ⟨k, b⟩ := c
    by_cases hk : k = a
    · subst hk; simp [h b, Memory.read]
    · by_cases hp : p (k, b) <;> simp [hp, Memory.read, hk, ih]

theorem Memory.read_filter_of_false (m : Memory) (p : Host.Cell → Bool) (a : Nat) (h : ∀ b, p (a, b) = false) :
    Memory.read (m.filter p) a = none := by
  induction m with
  | nil => rfl
  | cons c m ih =>
    obtain ⟨k, b⟩ := c
    by_cases hk : k = a
    · subst hk; simp [h b, ih]
    · by_cases hp : p (k, b) <;> simp [hp, Memory.read, hk, ih]

theorem Memory.read_cellsFrom (bs : List Byte) (a x : Nat) :
    Memory.read (Memory.cellsFrom a bs) x = if a ≤ x then bs[x - a]? else none := by
  induction bs generalizing a with
  | nil => simp [Memory.cellsFrom]
  | cons b bs ih =>
    simp only [Memory.cellsFrom, Memory.read, ih]
    by_cases h : a = x
    · subst h; simp
    · by_cases h2 : a ≤ x
      · have h3 : a + 1 ≤ x := by omega
        have h4 : x - a = (x - (a + 1)) + 1 := by omega
        simp [h, h2, h3, h4]
      · have h3 : ¬ a + 1 ≤ x := by omega
        simp [h, h2, h3]

/-- Everything a store does to a read. -/
theorem Memory.read_store (m : Memory) (a : Nat) (bs : List Byte) (x : Nat) :
    Memory.read (m.store a bs) x = if a ≤ x ∧ x < a + bs.length then bs[x - a]? else m.read x := by
  simp only [Memory.store, Memory.read_append, Memory.read_cellsFrom]
  by_cases h1 : x < a
  · rw [Memory.read_filter_of_true _ _ _ (by simp [h1]), Memory.read_filter_of_false _ _ x (by simp; omega)]
    have h2 : ¬ a ≤ x := by omega
    simp [h2]
  · rw [Memory.read_filter_of_false _ _ x (by simp; omega)]
    have h2 : a ≤ x := by omega
    by_cases h3 : x < a + bs.length
    · have h4 : x - a < bs.length := by omega
      simp [h2, h3, List.getElem?_eq_getElem h4]
    · have h4 : bs.length ≤ x - a := by omega
      rw [Memory.read_filter_of_true _ _ _ (by simp; omega)]
      simp [h2, h3, List.getElem?_eq_none h4]

theorem Memory.read_store_outside (m : Memory) (a : Nat) (bs : List Byte) (x : Nat) (h : ¬(a ≤ x ∧ x < a + bs.length)) :
    Memory.read (m.store a bs) x = m.read x := by rw [Memory.read_store, if_neg h]

theorem Memory.read_store_inside (m : Memory) (a : Nat) (bs : List Byte) (i : Nat) (h : i < bs.length) :
    Memory.read (m.store a bs) (a + i) = some bs[i] := by
  rw [Memory.read_store, if_pos (by omega)]; simp [h]

/-! ## The canonical form -/

theorem Memory.cellsFrom_key (bs : List Byte) (a : Nat) :
    ∀ c ∈ Memory.cellsFrom a bs, a ≤ c.1 ∧ c.1 < a + bs.length := by
  induction bs generalizing a with
  | nil => simp [Memory.cellsFrom]
  | cons b bs ih =>
    intro c hc
    simp only [Memory.cellsFrom, List.mem_cons] at hc
    obtain rfl | hc := hc
    · simp
    · have := ih (a + 1) c hc; simp; omega

theorem Memory.cellsFrom_wf (bs : List Byte) (a : Nat) : (Memory.cellsFrom a bs).wf := by
  induction bs generalizing a with
  | nil => simp [Memory.cellsFrom, Memory.wf]
  | cons b bs ih =>
    refine List.pairwise_cons.2 ⟨fun c hc => ?_, ih (a + 1)⟩
    have := Memory.cellsFrom_key bs (a + 1) c hc
    simp only; omega

/-- A store keeps the canonical form. -/
theorem Memory.store_wf (m : Memory) (a : Nat) (bs : List Byte) (h : m.wf) : (m.store a bs).wf := by
  simp only [Memory.store, Memory.wf]
  refine List.pairwise_append.2 ⟨List.pairwise_append.2 ⟨h.filter _, Memory.cellsFrom_wf bs a, ?_⟩, h.filter _, ?_⟩
  · intro c hc d hd
    have := Memory.cellsFrom_key bs a d hd
    have := (List.mem_filter.1 hc).2
    simp only [decide_eq_true_eq] at this; omega
  · intro c hc d hd
    have h2 := (List.mem_filter.1 hd).2
    simp only [decide_eq_true_eq] at h2
    rcases List.mem_append.1 hc with hc | hc
    · have := (List.mem_filter.1 hc).2
      simp only [decide_eq_true_eq] at this; omega
    · have := Memory.cellsFrom_key bs a c hc; omega

theorem Memory.storeSlots_wf (m : Memory) (a : Nat) (ws : List W64) (h : m.wf) : (m.storeSlots a ws).wf :=
  Memory.store_wf _ _ _ h

/-- The cells after a store are old cells or cells of the stored range. -/
theorem Memory.mem_store (m : Memory) (a : Nat) (bs : List Byte) (c : Host.Cell) (h : c ∈ m.store a bs) :
    c ∈ m ∨ (a ≤ c.1 ∧ c.1 < a + bs.length) := by
  simp only [Memory.store, List.mem_append, List.mem_filter] at h
  rcases h with (h | h) | h
  · exact .inl h.1
  · exact .inr (Memory.cellsFrom_key bs a c h)
  · exact .inl h.1

/-! ## Words and slots -/

@[simp] theorem bytesOfWord_length (w : W32) : (bytesOfWord w).length = 4 := rfl

@[simp] theorem bytesOfSlot_length (w : W64) : (bytesOfSlot w).length = 8 := rfl

theorem bytesOfWord_join (w : W32) :
    (w.extractLsb' 24 8 ++ w.extractLsb' 16 8 ++ w.extractLsb' 8 8 ++ w.extractLsb' 0 8 : BitVec 32) = w := by
  ext i hi
  simp only [BitVec.getElem_append, BitVec.getElem_extractLsb']
  split
  · simp [BitVec.getLsbD_eq_getElem hi]
  · split
    · rw [BitVec.getLsbD_eq_getElem (by omega)]; congr 1; omega
    · split
      · rw [BitVec.getLsbD_eq_getElem (by omega)]; congr 1; omega
      · rw [BitVec.getLsbD_eq_getElem (by omega)]; congr 1; omega

theorem halves_join (w : W64) : (highHalf w ++ lowHalf w : BitVec 64) = w := by
  ext i hi
  simp only [highHalf, lowHalf, BitVec.getElem_append, BitVec.getElem_extractLsb']
  split
  · simp [BitVec.getLsbD_eq_getElem hi]
  · rw [BitVec.getLsbD_eq_getElem (by omega)]; congr 1; omega

@[simp] theorem lowHalf_append (hi lo : W32) : lowHalf (hi ++ lo) = lo := by
  ext i h
  simp only [lowHalf, BitVec.getElem_extractLsb', BitVec.getLsbD_append]
  have : 0 + i < 32 := by omega
  rw [if_pos this]; simp [BitVec.getLsbD_eq_getElem h]

@[simp] theorem highHalf_append (hi lo : W32) : highHalf (hi ++ lo) = hi := by
  ext i h
  simp only [highHalf, BitVec.getElem_extractLsb', BitVec.getLsbD_append]
  have : ¬ 32 + i < 32 := by omega
  rw [if_neg this]
  have : 32 + i - 32 = i := by omega
  rw [this, BitVec.getLsbD_eq_getElem h]

/-- A word whose four bytes read as those of `w` is `w`. -/
theorem Memory.word_of_bytes (m : Memory) (a : Nat) (w : W32)
    (h : ∀ i, i < 4 → m.read (a + i) = (bytesOfWord w)[i]?) : m.word a = some w := by
  have h0 := h 0 (by omega)
  have h1 := h 1 (by omega)
  have h2 := h 2 (by omega)
  have h3 := h 3 (by omega)
  simp only [Nat.add_zero, bytesOfWord, List.getElem?_cons_zero, List.getElem?_cons_succ] at h0 h1 h2 h3
  simp only [Memory.word, h0, h1, h2, h3]
  exact congrArg some (bytesOfWord_join w)

/-- A word reads the same where its four bytes do. -/
theorem Memory.word_congr (m m' : Memory) (a : Nat) (h : ∀ i, i < 4 → m'.read (a + i) = m.read (a + i)) :
    m'.word a = m.word a := by
  have h0 := h 0 (by omega)
  have h1 := h 1 (by omega)
  have h2 := h 2 (by omega)
  have h3 := h 3 (by omega)
  simp only [Nat.add_zero] at h0
  simp only [Memory.word, h0, h1, h2, h3]

/-- A slot reads the same where its eight bytes do. -/
theorem Memory.slot_congr (m m' : Memory) (a : Nat) (h : ∀ i, i < 8 → m'.read (a + i) = m.read (a + i)) :
    m'.slot a = m.slot a := by
  have h1 := Memory.word_congr m m' a fun i hi => h i (by omega)
  have h2 := Memory.word_congr m m' (a + 4) fun i hi => by simpa [Nat.add_assoc] using h (4 + i) (by omega)
  simp only [Memory.slot, h1, h2]

/-- A word stored reads back (20_memory.md R71, R76). -/
theorem Memory.word_store_word (m : Memory) (a : Nat) (w : W32) : (m.store a (bytesOfWord w)).word a = some w := by
  refine Memory.word_of_bytes _ _ _ fun i hi => ?_
  rw [Memory.read_store, if_pos (by simp; omega)]; simp

/-- A word elsewhere keeps its value. -/
theorem Memory.word_store_outside (m : Memory) (a b : Nat) (bs : List Byte) (h : b + 4 ≤ a ∨ a + bs.length ≤ b) :
    (m.store a bs).word b = m.word b :=
  Memory.word_congr _ _ _ fun i hi => Memory.read_store_outside _ _ _ _ (by omega)

/-- A slot elsewhere keeps its value. -/
theorem Memory.slot_store_outside (m : Memory) (a b : Nat) (bs : List Byte) (h : b + 8 ≤ a ∨ a + bs.length ≤ b) :
    (m.store a bs).slot b = m.slot b :=
  Memory.slot_congr _ _ _ fun i hi => Memory.read_store_outside _ _ _ _ (by omega)

/-- A slot both of whose halves were stored reads back. -/
theorem Memory.slot_of_bytes (m : Memory) (a : Nat) (w : W64)
    (h : ∀ i, i < 8 → m.read (a + i) = (bytesOfSlot w)[i]?) : m.slot a = some w := by
  have h1 : m.word a = some (lowHalf w) := Memory.word_of_bytes _ _ _ fun i hi => by
    rw [h i (by omega), bytesOfSlot, List.getElem?_append_left (by simpa using hi)]
  have h2 : m.word (a + 4) = some (highHalf w) := Memory.word_of_bytes _ _ _ fun i hi => by
    have := h (4 + i) (by omega)
    rw [← Nat.add_assoc] at this
    rw [this, bytesOfSlot, List.getElem?_append_right (by simp)]; simp
  simp only [Memory.slot, h1, h2, halves_join]

/-! ## Runs of slots (20_memory.md R78) -/

theorem flatMap_bytesOfSlot_length (ws : List W64) : (ws.flatMap bytesOfSlot).length = 8 * ws.length := by
  induction ws with
  | nil => rfl
  | cons w ws ih => simp [List.flatMap_cons, ih]; omega

theorem flatMap_bytesOfSlot_getElem? (ws : List W64) (k i : Nat) (hi : i < 8) (hk : k < ws.length) :
    (ws.flatMap bytesOfSlot)[8 * k + i]? = (bytesOfSlot ws[k])[i]? := by
  induction ws generalizing k with
  | nil => simp at hk
  | cons w ws ih =>
    cases k with
    | zero =>
      rw [List.flatMap_cons, List.getElem?_append_left (by simp; omega)]; simp
    | succ k =>
      have hk' : k < ws.length := by simpa using hk
      rw [List.flatMap_cons, List.getElem?_append_right (by simp; omega), bytesOfSlot_length]
      have : 8 * (k + 1) + i - 8 = 8 * k + i := by omega
      rw [this, ih k hk']; rfl

/-- Everything a store of slots does to a slot of its own record. -/
theorem Memory.slot_storeSlots (m : Memory) (base : Nat) (ws : List W64) (k : Nat) (hk : k < ws.length) :
    (m.storeSlots base ws).slot (slotOffset base k) = some ws[k] := by
  refine Memory.slot_of_bytes _ _ _ fun i hi => ?_
  rw [Memory.storeSlots, slotOffset, Memory.read_store, if_pos (by rw [flatMap_bytesOfSlot_length]; omega)]
  have : base + 8 * k + i - base = 8 * k + i := by omega
  rw [this, flatMap_bytesOfSlot_getElem? ws k i hi hk]

/-- A byte outside the stored slots keeps its value. -/
theorem Memory.read_storeSlots_outside (m : Memory) (base : Nat) (ws : List W64) (x : Nat)
    (h : ¬(base ≤ x ∧ x < base + 8 * ws.length)) : (m.storeSlots base ws).read x = m.read x :=
  Memory.read_store_outside _ _ _ _ (by rw [flatMap_bytesOfSlot_length]; exact h)

/-- A slot outside the stored slots keeps its value. -/
theorem Memory.slot_storeSlots_outside (m : Memory) (base : Nat) (ws : List W64) (b : Nat)
    (h : b + 8 ≤ base ∨ base + 8 * ws.length ≤ b) : (m.storeSlots base ws).slot b = m.slot b :=
  Memory.slot_store_outside _ _ _ _ (by rw [flatMap_bytesOfSlot_length]; exact h)

theorem Memory.mem_storeSlots (m : Memory) (base : Nat) (ws : List W64) (c : Host.Cell) (h : c ∈ m.storeSlots base ws) :
    c ∈ m ∨ (base ≤ c.1 ∧ c.1 < base + 8 * ws.length) := by
  have := Memory.mem_store m base _ c h
  rwa [flatMap_bytesOfSlot_length] at this

/-! ## What holds a value -/

theorem Memory.word_isSome (m : Memory) (a : Nat) : (m.word a).isSome ↔ ∀ i, i < 4 → (m.read (a + i)).isSome := by
  constructor
  · intro h
    unfold Memory.word at h
    split at h
    · rename_i h0 h1 h2 h3
      intro i hi
      match i, hi with
      | 0, _ => simp [h0]
      | 1, _ => simp [h1]
      | 2, _ => simp [h2]
      | 3, _ => simp [h3]
    · simp at h
  · intro h
    obtain ⟨_, h0⟩ := Option.isSome_iff_exists.1 (h 0 (by omega))
    obtain ⟨_, h1⟩ := Option.isSome_iff_exists.1 (h 1 (by omega))
    obtain ⟨_, h2⟩ := Option.isSome_iff_exists.1 (h 2 (by omega))
    obtain ⟨_, h3⟩ := Option.isSome_iff_exists.1 (h 3 (by omega))
    simp only [Nat.add_zero] at h0
    simp [Memory.word, h0, h1, h2, h3]

theorem Memory.slot_isSome (m : Memory) (a : Nat) : (m.slot a).isSome ↔ ∀ i, i < 8 → (m.read (a + i)).isSome := by
  have h : (m.slot a).isSome ↔ (m.word a).isSome ∧ (m.word (a + 4)).isSome := by
    unfold Memory.slot
    cases m.word a <;> cases m.word (a + 4) <;> simp
  rw [h, Memory.word_isSome, Memory.word_isSome]
  constructor
  · rintro ⟨h1, h2⟩ i hi
    by_cases h : i < 4
    · exact h1 i h
    · have := h2 (i - 4) (by omega)
      rwa [show a + 4 + (i - 4) = a + i by omega] at this
  · intro h
    exact ⟨fun i hi => h i (by omega), fun i hi => by rw [Nat.add_assoc]; exact h (4 + i) (by omega)⟩

/-- A slot that holds a value holds one after every store. -/
theorem Memory.slot_store_isSome (m : Memory) (a b : Nat) (bs : List Byte) (h : (m.slot b).isSome) :
    ((m.store a bs).slot b).isSome := by
  rw [Memory.slot_isSome] at h ⊢
  intro i hi
  rw [Memory.read_store]
  split
  · rw [List.getElem?_eq_getElem (by omega)]; rfl
  · exact h i hi

/-! ## The lists the BWE stores -/

/-- Memory right after reset has the canonical form. -/
theorem Memory.reset_wf : State.reset.mem.wf := by simp [State.reset, Memory.wf]

end Sys2Proof.Machine
end

