-- ==== Sys2Proof/Laws/Mode.lean ====
section
/-!
SUPPORT. MODE_LEGAL and the needed slots as the model computes them (Machine/Load.lean) are what Safety.lean says of them
slot by slot (45_bwe_calculate.md R200; 70_reset_and_hazards.md R313).
-/

namespace Sys2Proof.Machine

theorem tapsLegal_iff (w : W64) : tapsLegal w = true ↔ LegalTaps w := by
  have := BitVec.toInt_eq_toNat_cond w
  have := w.isLt
  simp only [tapsLegal, decide_eq_true_eq, LegalTaps]
  omega

theorem positiveField_iff (w : W64) : positiveField w = true ↔ 0 < w.toInt := by
  simp [positiveField, Fx.gt]

theorem bytesPerPixelLegal_iff (w : W64) : bytesPerPixelLegal w = true ↔ w ∈ ([1, 2, 4, 8] : List W64) := by
  simp [bytesPerPixelLegal, or_assoc]

theorem rotationLegal_iff (w : W64) : rotationLegal w = true ↔ w ∈ ([0, 90, 180, 270] : List W64) := by
  simp [rotationLegal, or_assoc]

/-- A code of an enumeration of three names. -/
theorem codeOfThree_isSome {α : Type} (a b c : α) (w : W64) :
    (if w = 0 then some a else if w = 1 then some b else if w = 2 then some c else none).isSome = true
      ↔ w ∈ ([0, 1, 2] : List W64) := by
  simp only [List.mem_cons, List.not_mem_nil, or_false]
  repeat' split
  all_goals simp_all

theorem underlayFormatOfCode_isSome (w : W64) : (underlayFormatOfCode w).isSome = true ↔ w ∈ ([0, 1, 2] : List W64) :=
  codeOfThree_isSome _ _ _ w

theorem panningOfCode_isSome (w : W64) : (panningOfCode w).isSome = true ↔ w ∈ ([0, 1, 2] : List W64) :=
  codeOfThree_isSome _ _ _ w

theorem underlayModeOfCode_isSome (w : W64) : (underlayModeOfCode w).isSome = true ↔ w ∈ ([0, 1, 2] : List W64) :=
  codeOfThree_isSome _ _ _ w

theorem stereoModeOfCode_isSome (w : W64) : (stereoModeOfCode w).isSome = true ↔ w ∈ ([0, 1, 2] : List W64) :=
  codeOfThree_isSome _ _ _ w

theorem tilingModeOfCode_isSome (w : W64) : (tilingModeOfCode w).isSome = true ↔ w ∈ ([0, 1] : List W64) := by
  simp only [tilingModeOfCode, List.mem_cons, List.not_mem_nil, or_false]; split <;> simp_all

theorem underlayUsed_iff (raw : Nat → W64) (n : Nat) : underlayUsed raw n = true ↔ UsesUnderlay raw n := by
  simp [underlayUsed, UsesUnderlay, Nat.succ_le_iff]

theorem writebackUsed_iff (raw : Nat → W64) (n : Nat) : writebackUsed raw n = true ↔ UsesWriteback raw n := by
  simp [writebackUsed, UsesWriteback, boolOfWord, and_comm]

theorem displayLegal_iff (raw : Nat → W64) (k : Nat) : displayLegal raw k = true ↔ LegalDisplay raw k := by
  have e : ∀ j, displaySlot k j = 16 + 16 * k + j := fun _ => rfl
  have e6 : 16 + 16 * k + 6 = 22 + 16 * k := by omega
  have e7 : 16 + 16 * k + 7 = 23 + 16 * k := by omega
  have e8 : 16 + 16 * k + 8 = 24 + 16 * k := by omega
  have e9 : 16 + 16 * k + 9 = 25 + 16 * k := by omega
  have e10 : 16 + 16 * k + 10 = 26 + 16 * k := by omega
  have e12 : 16 + 16 * k + 12 = 28 + 16 * k := by omega
  simp only [displayLegal, Bool.and_eq_true, List.all_eq_true, List.mem_range, positiveField_iff, tapsLegal_iff,
    bytesPerPixelLegal_iff, rotationLegal_iff, stereoModeOfCode_isSome, tilingModeOfCode_isSome, e, e6, e7, e8, e9, e10, e12]
  exact ⟨fun ⟨⟨⟨⟨⟨⟨h0, h1⟩, h2⟩, h3⟩, h4⟩, h5⟩, h6⟩ => ⟨h0, h1, h2, h3, h4, h5, h6⟩,
    fun ⟨h0, h1, h2, h3, h4, h5, h6⟩ => ⟨⟨⟨⟨⟨⟨h0, h1⟩, h2⟩, h3⟩, h4⟩, h5⟩, h6⟩⟩

theorem underlayLegal_iff (raw : Nat → W64) : underlayLegal raw = true ↔ LegalUnderlay raw := by
  simp only [underlayLegal, Bool.and_eq_true, List.all_eq_true, List.mem_range, positiveField_iff, tapsLegal_iff,
    rotationLegal_iff, tilingModeOfCode_isSome]
  constructor
  · rintro ⟨⟨⟨⟨h0, h1⟩, h2⟩, h3⟩, h4⟩
    exact ⟨fun k hk hk' => by have := h0 (k - 112) (by omega); rwa [show 112 + (k - 112) = k by omega] at this, h1, h2, h3, h4⟩
  · rintro ⟨h0, h1, h2, h3, h4⟩
    exact ⟨⟨⟨⟨fun j hj => h0 _ (by omega) (by omega), h1⟩, h2⟩, h3⟩, h4⟩

theorem writebackLegal_iff (raw : Nat → W64) : writebackLegal raw = true ↔ LegalWriteback raw := by
  simp only [writebackLegal, Bool.and_eq_true, List.all_eq_true, List.mem_range, positiveField_iff, tapsLegal_iff,
    bytesPerPixelLegal_iff, tilingModeOfCode_isSome]
  constructor
  · rintro ⟨⟨⟨⟨h0, h1⟩, h2⟩, h3⟩, h4⟩
    exact ⟨fun k hk hk' => by have := h0 (k - 128) (by omega); rwa [show 128 + (k - 128) = k by omega] at this, h1, h2, h3, h4⟩
  · rintro ⟨h0, h1, h2, h3, h4⟩
    exact ⟨⟨⟨⟨fun j hj => h0 _ (by omega) (by omega), h1⟩, h2⟩, h3⟩, h4⟩

theorem displayCountLegal_iff (w : W64) : displayCountLegal w = true ↔ w.toNat ≤ 6 := by simp [displayCountLegal]

/-- MODE_LEGAL is R200's list. -/
theorem modeLegal_iff (raw : Nat → W64) : modeLegal raw = true ↔ LegalMode raw := by
  have imp : ∀ (p q : Bool) (P Q : Prop), (p = true ↔ P) → (q = true ↔ Q) → ((!p || q) = true ↔ (P → Q)) := by
    intro p q P Q hp hq
    rw [← hp, ← hq]
    cases p <;> cases q <;> simp
  simp only [modeLegal, globalsLegal, Bool.and_eq_true, displayCountLegal_iff, underlayFormatOfCode_isSome,
    panningOfCode_isSome, underlayModeOfCode_isSome, List.all_eq_true, List.mem_range, displayLegal_iff,
    imp _ _ _ _ (underlayUsed_iff raw _) (underlayLegal_iff raw), imp _ _ _ _ (writebackUsed_iff raw _) (writebackLegal_iff raw)]
  constructor
  · rintro ⟨⟨⟨⟨h0, ⟨⟨h1, h2⟩, h4⟩, h5⟩, hd⟩, hu⟩, hw⟩
    refine ⟨h0, fun k hk => ?_, hd, hu, hw⟩
    simp only [List.mem_cons, List.not_mem_nil, or_false] at hk
    rcases hk with rfl | rfl | rfl | rfl <;> assumption
  · rintro ⟨h0, hg, hd, hu, hw⟩
    exact ⟨⟨⟨⟨h0, ⟨⟨hg 1 (by simp), hg 2 (by simp)⟩, hg 4 (by simp)⟩, hg 5 (by simp)⟩, hd⟩, hu⟩, hw⟩

/-- The slots the model asks for are R313's. -/
theorem mem_modeSlotsNeeded (raw : Nat → W64) (n k : Nat) : k ∈ modeSlotsNeeded raw n ↔ NeededModeSlot raw n k := by
  have shared : ∀ (b : Bool) (P : Prop) (a l : Nat), (b = true ↔ P) →
      (k ∈ (if b then (List.range l).map (a + ·) else []) ↔ P ∧ a ≤ k ∧ k < a + l) := by
    intro b P a l hb
    rw [← hb]
    cases b
    · simp
    · simp only [if_true, List.mem_map, List.mem_range, true_and]
      exact ⟨fun ⟨j, hj, e⟩ => by omega, fun h => ⟨k - a, by omega, by omega⟩⟩
  simp only [modeSlotsNeeded, List.mem_append, shared _ _ _ _ (underlayUsed_iff raw n), shared _ _ _ _ (writebackUsed_iff raw n),
    List.mem_flatMap, List.mem_map, List.mem_range, List.mem_cons, List.not_mem_nil, or_false, NeededModeSlot, displaySlot]
  have display : (∃ d, d < n ∧ ∃ j, j < 15 ∧ 16 + 16 * d + j = k) ↔ ∃ d, d < n ∧ 16 + 16 * d ≤ k ∧ k ≤ 30 + 16 * d :=
    exists_congr fun d => and_congr_right fun _ => ⟨fun ⟨j, hj, e⟩ => by omega, fun h => ⟨k - (16 + 16 * d), by omega, by omega⟩⟩
  have first : (k = 1 ∨ k = 2 ∨ k = 3 ∨ k = 4 ∨ k = 5) ↔ 1 ≤ k ∧ k ≤ 5 := by omega
  rw [display, first]
  constructor
  · rintro (((h | h) | ⟨u, h⟩) | ⟨u, h⟩)
    · exact .inl h
    · exact .inr (.inl h)
    · exact .inr (.inr (.inl ⟨u, by omega⟩))
    · exact .inr (.inr (.inr ⟨u, by omega⟩))
  · rintro (h | h | ⟨u, h⟩ | ⟨u, h⟩)
    · exact .inl (.inl (.inl h))
    · exact .inl (.inl (.inr h))
    · exact .inl (.inr ⟨u, by omega⟩)
    · exact .inr ⟨u, by omega⟩

end Sys2Proof.Machine
end

