-- ==== Sys2Proof/Laws/PerInstr.lean ====
section
/-!
SUPPORT. A law stated once for every command: the word of a command is a word of its unit's opcode map (30_encoding.md
R94, R100).
-/

namespace Sys2Proof.Machine

theorem matches_iff (r : OpcodeRow) (w : W32) : r.matches w = true ↔ w &&& r.mask = r.matchWord := by
  simp [OpcodeRow.matches]

/-- A three-register word keeps its opcode and loses its registers under the mask of its row. -/
theorem encodeR3_masked (op : BitVec 6) (rd rs1 rs2 : Reg) :
    encodeR3 op rd rs1 rs2 &&& 0xFC003FFF = (op ++ 0#26 : BitVec 32) := by
  have e : (0xFC003FFF : W32) = BitVec.allOnes 6 ++ 0#4 ++ 0#4 ++ 0#4 ++ BitVec.allOnes 14 := by decide
  have h : encodeR3 op rd rs1 rs2 = (op ++ regBits rd ++ regBits rs1 ++ regBits rs2 ++ 0#14 : BitVec 32) := rfl
  rw [h, e, BitVec.and_append, BitVec.and_append, BitVec.and_append, BitVec.and_append]
  simp only [BitVec.and_allOnes, BitVec.and_zero]
  exact BitVec.eq_of_toNat_eq (by simp only [append_toNat, BitVec.toNat_ofNat]; omega)

/-- A one-source word under the mask of its row. -/
theorem encodeR2_masked (op : BitVec 6) (rd rs1 : Reg) : encodeR2 op rd rs1 &&& 0xFC03FFFF = (op ++ 0#26 : BitVec 32) := by
  have e : (0xFC03FFFF : W32) = BitVec.allOnes 6 ++ 0#4 ++ 0#4 ++ BitVec.allOnes 18 := by decide
  have h : encodeR2 op rd rs1 = (op ++ regBits rd ++ regBits rs1 ++ 0#18 : BitVec 32) := rfl
  rw [h, e, BitVec.and_append, BitVec.and_append, BitVec.and_append]
  simp only [BitVec.and_allOnes, BitVec.and_zero]
  exact BitVec.eq_of_toNat_eq (by simp only [append_toNat, BitVec.toNat_ofNat]; omega)

/-- An immediate word under the mask of its row. -/
theorem encodeImm_masked (op : BitVec 6) (rd : Reg) (imm16 : BitVec 16) :
    encodeImm op rd imm16 &&& 0xFC3F0000 = (op ++ 0#26 : BitVec 32) := by
  have e : (0xFC3F0000 : W32) = BitVec.allOnes 6 ++ 0#4 ++ BitVec.allOnes 6 ++ 0#16 := by decide
  have h : encodeImm op rd imm16 = (op ++ regBits rd ++ 0#6 ++ imm16 : BitVec 32) := rfl
  rw [h, e, BitVec.and_append, BitVec.and_append, BitVec.and_append]
  simp only [BitVec.and_allOnes, BitVec.and_zero]
  exact BitVec.eq_of_toNat_eq (by simp only [append_toNat, BitVec.toNat_ofNat]; omega)

/-- INIT's word under the mask of its row. -/
theorem encodeBwe_masked (cmd version : BitVec 4) (stoney : Bool) :
    encodeBwe cmd version stoney &&& 0xFFFFFE0F = (0#28 ++ cmd : BitVec 32) := by
  have e : (0xFFFFFE0F : W32) = BitVec.allOnes 23 ++ 0#1 ++ 0#4 ++ BitVec.allOnes 4 := by decide
  have h : encodeBwe cmd version stoney = (0#23 ++ BitVec.ofBool stoney ++ version ++ cmd : BitVec 32) := rfl
  rw [h, e, BitVec.and_append, BitVec.and_append, BitVec.and_append]
  simp only [BitVec.and_allOnes, BitVec.and_zero]
  exact BitVec.eq_of_toNat_eq (by simp only [append_toNat, BitVec.toNat_ofNat]; omega)

end Sys2Proof.Machine

namespace Sys2Proof.Laws

open Sys2Proof.Machine

/-- The word of a command matches a row of the opcode map of its unit. -/
def EncodeInMap.Statement (i : Instr) : Prop := ∃ r ∈ opcodeRows i.unit, r.matches (encode i) = true

/-- A word that a row's mask takes to the row's match word. -/
theorem encodeInMap_of (i : Instr) (u : CmdUnit) (hu : i.unit = u) (r : OpcodeRow) (h : r ∈ opcodeRows u)
    (e : encode i &&& r.mask = r.matchWord) : EncodeInMap.Statement i := ⟨r, hu ▸ h, (matches_iff r _).2 e⟩

theorem EncodeInMap.add (rd rs1 rs2 : Reg) : EncodeInMap.Statement (.add rd rs1 rs2) :=
  encodeInMap_of _ .fxu rfl ⟨0x04000000, 0xFC003FFF⟩ (by decide) (encodeR3_masked _ rd rs1 rs2)

theorem EncodeInMap.sub (rd rs1 rs2 : Reg) : EncodeInMap.Statement (.sub rd rs1 rs2) :=
  encodeInMap_of _ .fxu rfl ⟨0x08000000, 0xFC003FFF⟩ (by decide) (encodeR3_masked _ rd rs1 rs2)

theorem EncodeInMap.mul (rd rs1 rs2 : Reg) : EncodeInMap.Statement (.mul rd rs1 rs2) :=
  encodeInMap_of _ .fxu rfl ⟨0x0C000000, 0xFC003FFF⟩ (by decide) (encodeR3_masked _ rd rs1 rs2)

theorem EncodeInMap.div (rd rs1 rs2 : Reg) : EncodeInMap.Statement (.div rd rs1 rs2) :=
  encodeInMap_of _ .fxu rfl ⟨0x10000000, 0xFC003FFF⟩ (by decide) (encodeR3_masked _ rd rs1 rs2)

theorem EncodeInMap.mod (rd rs1 rs2 : Reg) : EncodeInMap.Statement (.mod rd rs1 rs2) :=
  encodeInMap_of _ .fxu rfl ⟨0x14000000, 0xFC003FFF⟩ (by decide) (encodeR3_masked _ rd rs1 rs2)

theorem EncodeInMap.neg (rd rs1 : Reg) : EncodeInMap.Statement (.neg rd rs1) :=
  encodeInMap_of _ .fxu rfl ⟨0x18000000, 0xFC03FFFF⟩ (by decide) (encodeR2_masked _ rd rs1)

theorem EncodeInMap.abs (rd rs1 : Reg) : EncodeInMap.Statement (.abs rd rs1) :=
  encodeInMap_of _ .fxu rfl ⟨0x1C000000, 0xFC03FFFF⟩ (by decide) (encodeR2_masked _ rd rs1)

theorem EncodeInMap.floor (rd rs1 rs2 : Reg) : EncodeInMap.Statement (.floor rd rs1 rs2) :=
  encodeInMap_of _ .fxu rfl ⟨0x20000000, 0xFC003FFF⟩ (by decide) (encodeR3_masked _ rd rs1 rs2)

theorem EncodeInMap.ceil (rd rs1 rs2 : Reg) : EncodeInMap.Statement (.ceil rd rs1 rs2) :=
  encodeInMap_of _ .fxu rfl ⟨0x24000000, 0xFC003FFF⟩ (by decide) (encodeR3_masked _ rd rs1 rs2)

theorem EncodeInMap.fromint (rd rs1 : Reg) : EncodeInMap.Statement (.fromint rd rs1) :=
  encodeInMap_of _ .fxu rfl ⟨0x28000000, 0xFC03FFFF⟩ (by decide) (encodeR2_masked _ rd rs1)

theorem EncodeInMap.fromfrac (rd rs1 rs2 : Reg) : EncodeInMap.Statement (.fromfrac rd rs1 rs2) :=
  encodeInMap_of _ .fxu rfl ⟨0x2C000000, 0xFC003FFF⟩ (by decide) (encodeR3_masked _ rd rs1 rs2)

theorem EncodeInMap.toint (rd rs1 : Reg) : EncodeInMap.Statement (.toint rd rs1) :=
  encodeInMap_of _ .fxu rfl ⟨0x30000000, 0xFC03FFFF⟩ (by decide) (encodeR2_masked _ rd rs1)

theorem EncodeInMap.min (rd rs1 rs2 : Reg) : EncodeInMap.Statement (.min rd rs1 rs2) :=
  encodeInMap_of _ .fxu rfl ⟨0x34000000, 0xFC003FFF⟩ (by decide) (encodeR3_masked _ rd rs1 rs2)

theorem EncodeInMap.max (rd rs1 rs2 : Reg) : EncodeInMap.Statement (.max rd rs1 rs2) :=
  encodeInMap_of _ .fxu rfl ⟨0x38000000, 0xFC003FFF⟩ (by decide) (encodeR3_masked _ rd rs1 rs2)

theorem EncodeInMap.clt (rd rs1 rs2 : Reg) : EncodeInMap.Statement (.clt rd rs1 rs2) :=
  encodeInMap_of _ .fxu rfl ⟨0x40000000, 0xFC003FFF⟩ (by decide) (encodeR3_masked _ rd rs1 rs2)

theorem EncodeInMap.cle (rd rs1 rs2 : Reg) : EncodeInMap.Statement (.cle rd rs1 rs2) :=
  encodeInMap_of _ .fxu rfl ⟨0x44000000, 0xFC003FFF⟩ (by decide) (encodeR3_masked _ rd rs1 rs2)

theorem EncodeInMap.ceq (rd rs1 rs2 : Reg) : EncodeInMap.Statement (.ceq rd rs1 rs2) :=
  encodeInMap_of _ .fxu rfl ⟨0x48000000, 0xFC003FFF⟩ (by decide) (encodeR3_masked _ rd rs1 rs2)

theorem EncodeInMap.cne (rd rs1 rs2 : Reg) : EncodeInMap.Statement (.cne rd rs1 rs2) :=
  encodeInMap_of _ .fxu rfl ⟨0x4C000000, 0xFC003FFF⟩ (by decide) (encodeR3_masked _ rd rs1 rs2)

theorem EncodeInMap.cgt (rd rs1 rs2 : Reg) : EncodeInMap.Statement (.cgt rd rs1 rs2) :=
  encodeInMap_of _ .fxu rfl ⟨0x50000000, 0xFC003FFF⟩ (by decide) (encodeR3_masked _ rd rs1 rs2)

theorem EncodeInMap.cge (rd rs1 rs2 : Reg) : EncodeInMap.Statement (.cge rd rs1 rs2) :=
  encodeInMap_of _ .fxu rfl ⟨0x54000000, 0xFC003FFF⟩ (by decide) (encodeR3_masked _ rd rs1 rs2)

theorem EncodeInMap.ldi (rd : Reg) (imm16 : BitVec 16) : EncodeInMap.Statement (.ldi rd imm16) :=
  encodeInMap_of _ .fxu rfl ⟨0x60000000, 0xFC3F0000⟩ (by decide) (encodeImm_masked _ rd imm16)

theorem EncodeInMap.ldih (rd : Reg) (imm16 : BitVec 16) : EncodeInMap.Statement (.ldih rd imm16) :=
  encodeInMap_of _ .fxu rfl ⟨0x64000000, 0xFC3F0000⟩ (by decide) (encodeImm_masked _ rd imm16)

theorem EncodeInMap.mov (rd rs1 : Reg) : EncodeInMap.Statement (.mov rd rs1) :=
  encodeInMap_of _ .fxu rfl ⟨0x68000000, 0xFC03FFFF⟩ (by decide) (encodeR2_masked _ rd rs1)

theorem EncodeInMap.nop : EncodeInMap.Statement .nop := encodeInMap_of _ .fxu rfl ⟨0x6C000000, 0xFFFFFFFF⟩ (by decide) (by decide)

theorem EncodeInMap.bweNop : EncodeInMap.Statement .bweNop := encodeInMap_of _ .bwe rfl ⟨0, 0xFFFFFFFF⟩ (by decide) (by decide)

theorem EncodeInMap.bweInit (version : BitVec 4) (stoneyRev : Bool) : EncodeInMap.Statement (.bweInit version stoneyRev) :=
  encodeInMap_of _ .bwe rfl ⟨1, 0xFFFFFE0F⟩ (by decide) (encodeBwe_masked 1 version stoneyRev)

theorem EncodeInMap.bweCalc : EncodeInMap.Statement .bweCalc := encodeInMap_of _ .bwe rfl ⟨2, 0xFFFFFFFF⟩ (by decide) (by decide)

theorem EncodeInMap.bweBwcalcs : EncodeInMap.Statement .bweBwcalcs := encodeInMap_of _ .bwe rfl ⟨3, 0xFFFFFFFF⟩ (by decide) (by decide)

end Sys2Proof.Laws
end

