-- ==== Sys2Proof/Laws/Step.lean ====
section
/-!
SUPPORT. What one step can do: the aligned 32-bit accesses of the owner one by one, and every step that has a next
state.
-/

namespace Sys2Proof.Machine

/-! ## The map (20_memory.md R73) -/

theorem Access.stop_eq_none (a : Access) :
    a.stop = none ↔ a.agent = .owner ∧ a.width = .w32 ∧ a.offset % 4 = 0 ∧ targetOf a.offset ≠ .outside := by
  unfold Access.stop Access.aligned32
  obtain ⟨agent, width, offset⟩ := a
  cases agent
  · cases width <;> by_cases h : offset % 4 = 0 <;> simp [h]
  · simp

theorem targetOf_ne_outside (offset : Nat) (h : offset < 0x8000) : targetOf offset ≠ .outside := by
  unfold targetOf
  repeat' split
  all_goals (intro e; cases e)

theorem targetOf_record (offset : Nat) (h : inRecord offset = true) : targetOf offset = .record := by
  simp only [inRecord, Bool.or_eq_true, Bool.and_eq_true, decide_eq_true_eq] at h
  have h1 : inRecord offset = true := by simp only [inRecord, Bool.or_eq_true, Bool.and_eq_true, decide_eq_true_eq]; omega
  unfold targetOf
  repeat' split
  all_goals first | rfl | (exfalso; omega)

theorem targetOf_reserved (offset : Nat) (h : (0x018 ≤ offset ∧ offset < 0x100) ∨ (0x180 ≤ offset ∧ offset < 0x1000)
    ∨ (0x3000 ≤ offset ∧ offset < 0x4000)) : targetOf offset = .reserved := by
  have h1 : inRecord offset = false := by simp [inRecord]; omega
  unfold targetOf
  repeat' split
  all_goals first | rfl | (exfalso; omega) | (rename_i h'; rw [h1] at h'; cases h')

theorem targetOf_frLow (r : Reg) : targetOf (0x100 + 8 * r.val) = .frHalf r false := by
  revert r; decide

theorem targetOf_frHigh (r : Reg) : targetOf (0x104 + 8 * r.val) = .frHalf r true := by
  revert r; decide

/-- Only an offset of a record selects one. -/
theorem inRecord_of_target (offset : Nat) (h : targetOf offset = .record) : inRecord offset = true := by
  unfold targetOf at h
  repeat' split at h
  all_goals first | (cases h; done) | assumption

/-! ## Single accesses -/

@[simp] theorem lowHalf_zeroExtend (v : W32) : lowHalf (v.zeroExtend 64) = v := by
  apply BitVec.eq_of_toNat_eq
  have := v.isLt
  simp only [lowHalf, BitVec.extractLsb'_toNat, BitVec.toNat_setWidth]
  omega

/-- A read of an aligned offset of the window. -/
theorem step_read (s : State) (rest : List HostEvent) (offset : Nat) (h : s.pending = r32 offset :: rest)
    (h4 : offset % 4 = 0) (hw : offset < 0x8000) :
    step s = .next { s with pending := rest, response := some (s.readWindow offset) } := by
  have hs : (⟨.owner, .w32, offset⟩ : Access).stop = none :=
    (Access.stop_eq_none _).2 ⟨rfl, rfl, h4, targetOf_ne_outside offset hw⟩
  simp only [step, h, r32, State.serve, hs]
  rfl

/-- A write of an aligned offset of the window. -/
theorem step_write (s : State) (rest : List HostEvent) (offset : Nat) (v : W32) (h : s.pending = w32 offset v :: rest)
    (h4 : offset % 4 = 0) (hw : offset < 0x8000) :
    step s = (({ s with pending := rest } : State).beginWrite.writeWindow offset v).outcome := by
  have hs : (⟨.owner, .w32, offset⟩ : Access).stop = none :=
    (Access.stop_eq_none _).2 ⟨rfl, rfl, h4, targetOf_ne_outside offset hw⟩
  simp only [step, h, w32, State.serve, hs, lowHalf_zeroExtend]

/-! ## Every step -/

/-- What a write that is answered can have done. -/
inductive WriteEffect (s : State) (offset : Nat) (v : W32) (t : State) : Prop
  | command (u : CmdUnit) (i : Instr) (h : decode u v = .ok i) (ht : exec i s = .next t)
  | illegal (u : CmdUnit) (ht : t = s.raise u .ill)
  | fxuStatus (h : offset = 0x008) (ht : t = { s with fxuStatus := writeOneToClear fxuStatusW1cMask s.fxuStatus v })
  | bweStatus (h : offset = 0x010) (ht : t = { s with bweStatus := writeOneToClear bweStatusW1cMask s.bweStatus v })
  | frHalf (r : Reg) (high : Bool) (ht : t = s.writeFrHalf r high v)
  | record (h : inRecord offset = true) (ht : t = { s with mem := s.mem.store offset (bytesOfWord v) })
  | ignored (ht : t = s)

theorem State.issue_next (s t : State) (u : CmdUnit) (offset : Nat) (v : W32)
    (h : (s.issue u v).outcome = .next t) : WriteEffect s offset v t := by
  unfold State.issue at h
  generalize hd : decode u v = d at h
  cases d with
  | ok i => exact .command u i hd h
  | error e => exact .illegal u (Host.Outcome.next.inj h).symm

/-- Everything a write can do when it has a next state. -/
theorem State.writeWindow_next (s t : State) (offset : Nat) (v : W32)
    (h : (s.writeWindow offset v).outcome = .next t) : WriteEffect s offset v t := by
  unfold State.writeWindow at h
  generalize ht : targetOf offset = target at h
  cases target with
  | fxuCmd => exact State.issue_next s t .fxu offset v h
  | bweCtrl => exact State.issue_next s t .bwe offset v h
  | fxuStatus =>
    refine .fxuStatus ?_ (Host.Outcome.next.inj h).symm
    unfold targetOf at ht
    repeat' split at ht
    all_goals first | (cases ht; done) | assumption
  | bweStatus =>
    refine .bweStatus ?_ (Host.Outcome.next.inj h).symm
    unfold targetOf at ht
    repeat' split at ht
    all_goals first | (cases ht; done) | assumption
  | frHalf r high => exact .frHalf r high (Host.Outcome.next.inj h).symm
  | record => exact .record (inRecord_of_target offset ht) (Host.Outcome.next.inj h).symm
  | blkId => exact .ignored (Host.Outcome.next.inj h).symm
  | bweVersion => exact .ignored (Host.Outcome.next.inj h).symm
  | reserved => exact .ignored (Host.Outcome.next.inj h).symm
  | outside => exact .ignored (Host.Outcome.next.inj h).symm

/-- What a step that has a next state can have done, with the event it took. -/
inductive StepEffect (s t : State) : Prop
  | idle (h : s.pending = []) (ht : t = s)
  | read (a : Access) (rest : List HostEvent) (h : s.pending = .read a :: rest)
      (ht : t = { s with pending := rest, response := some (({ s with pending := rest } : State).readWindow a.offset) })
  | write (a : Access) (value : W64) (rest : List HostEvent) (h : s.pending = .write a value :: rest)
      (h4 : a.offset % 4 = 0)
      (ht : WriteEffect ({ s with pending := rest } : State).beginWrite a.offset (lowHalf value) t)
  | reset (rest : List HostEvent) (h : s.pending = .reset :: rest)
      (ht : t = ({ s with pending := rest } : State).resetKeepingHost)

/-- Everything a step can do when it has a next state. -/
theorem step_next {s t : State} (h : step s = .next t) : StepEffect s t := by
  unfold step at h
  generalize hp : s.pending = p at h
  cases p with
  | nil => exact .idle hp (Host.Outcome.next.inj h).symm
  | cons e rest =>
    cases e with
    | read a =>
      simp only [State.serve] at h
      generalize hs : a.stop = stop at h
      cases stop with
      | none => exact .read a rest hp (Host.Outcome.next.inj h).symm
      | some stop =>
        exfalso
        unfold Access.stop at hs
        repeat' split at hs
        all_goals (cases hs; try cases h)
    | write a value =>
      simp only [State.serve] at h
      generalize hs : a.stop = stop at h
      cases stop with
      | none => exact .write a value rest hp ((Access.stop_eq_none a).1 hs).2.2.1 (State.writeWindow_next _ _ _ _ h)
      | some stop =>
        exfalso
        unfold Access.stop at hs
        repeat' split at hs
        all_goals (cases hs; try cases h)
    | reset => exact .reset rest hp (Host.Outcome.next.inj h).symm
    | resetInsideAccess => cases h

end Sys2Proof.Machine
end

