-- ==== Sys2Proof/Laws/Store.lean ====
section
/-!
SUPPORT. What the operations that begin and end a BWE command do: when MODE is legal and read, which slots the command
stores, which bytes it leaves.
-/

namespace Sys2Proof.Machine

/-! ## Reading the records -/

theorem firstUnwritten_eq_none (m : Memory) (l : List Nat) :
    firstUnwritten m l = none ↔ ∀ a ∈ l, (m.slot a).isSome := by
  simp [firstUnwritten, List.find?_eq_none, Option.isSome_iff_ne_none]

theorem firstUnwritten_eq_some (m : Memory) (l : List Nat) (a : Nat) (h : firstUnwritten m l = some a) :
    a ∈ l ∧ (m.slot a).isSome = false := by
  refine ⟨List.mem_of_find?_eq_some h, ?_⟩
  have := List.find?_some h
  simpa using this

theorem capabilities_iff (m : Memory) : firstUnwritten m capabilityOffsets = none ↔ capabilitiesWritten m := by
  rw [firstUnwritten_eq_none, capabilitiesWritten]
  simp only [capabilityOffsets, List.mem_append, List.mem_map, List.mem_range, Memory.slotsWritten]
  constructor
  · intro h
    exact ⟨fun k hk => h _ (.inl ⟨k, hk, rfl⟩), fun k hk => h _ (.inr ⟨k, hk, rfl⟩)⟩
  · rintro ⟨h1, h2⟩ a (⟨k, hk, rfl⟩ | ⟨k, hk, rfl⟩)
    · exact h1 k hk
    · exact h2 k hk

theorem recordSlot_of_some (m : Memory) (base k : Nat) (w : W64) (h : m.slot (slotOffset base k) = some w) :
    recordSlot m base k = w := by simp [recordSlot, h]

theorem modeCount_of_some (m : Memory) (w : W64) (h : m.slot 0x2000 = some w) : modeCount m = w.toNat := by
  simp [modeCount, modeSlot, h]

/-- Reading a MODE that is written: MODE_LEGAL decides. -/
theorem loadMode_of_written (m : Memory) (h : modeWritten m) :
    loadMode m = if modeLegal (modeSlot m) then .legal (modeOf m) else .illegal := by
  obtain ⟨h0, hn, hk⟩ := h
  obtain ⟨w, hw⟩ := Option.isSome_iff_exists.1 h0
  have hc : modeCount m = w.toNat := by rw [modeCount_of_some _ _ hw]
  have h1 : displayCountLegal w = true := (displayCountLegal_iff w).2 (hc ▸ hn)
  have h2 : firstUnwritten m ((modeSlotsNeeded (recordSlot m modeBase) w.toNat).map (slotOffset modeBase)) = none := by
    rw [firstUnwritten_eq_none]
    intro a ha
    obtain ⟨k, hk', rfl⟩ := List.mem_map.1 ha
    exact hk k ((mem_modeSlotsNeeded _ _ _).1 (by rw [hc]; exact hk'))
  have hw' : m.slot (slotOffset modeBase 0) = some w := hw
  simp only [loadMode, hw', h1, h2, if_true]
  rfl

/-- A number of displays above 6 is illegal whatever else MODE holds. -/
theorem loadMode_of_count (m : Memory) (h : (m.slot 0x2000).isSome) (hn : 6 < modeCount m) :
    loadMode m = .illegal := by
  obtain ⟨w, hw⟩ := Option.isSome_iff_exists.1 h
  have hc : modeCount m = w.toNat := by rw [modeCount_of_some _ _ hw]
  have h1 : displayCountLegal w = false := by
    rw [Bool.eq_false_iff, Ne, displayCountLegal_iff]; omega
  have hw' : m.slot (slotOffset modeBase 0) = some w := hw
  simp [loadMode, hw', h1]

@[simp] theorem modeOf_n (m : Memory) : (modeOf m).n = modeCount m := by
  simp [modeOf, modeOfSlots, Mode.n, modeCount]

/-- A BWE command whose records are ready has its own effect. -/
theorem withLegalMode_of_ready (s : State) (needs : Mode → Bool) (run : Mode → State) (h : CalcReady s.mem) :
    withLegalMode s needs run = .next (run (modeOf s.mem)) := by
  have h1 := loadMode_of_written s.mem h.mode
  rw [(modeLegal_iff _).2 h.legal, if_pos rfl] at h1
  have h2 := (capabilities_iff s.mem).2 h.capabilities
  simp only [withLegalMode, h1, h2]
  split <;> rfl

/-! ## The lists that are stored -/

@[simp] theorem Results.slots_length (r : Results) : r.slots.length = 2048 := by simp [Results.slots]

theorem Results.slots_getElem (r : Results) (k : Nat) (h : k < r.slots.length) : r.slots[k] = r.slot k := by
  simp [Results.slots]

@[simp] theorem Output.scalars_length (o : Output) : o.scalars.length = 7 := rfl

@[simp] theorem initDceip_length (version : BitVec 4) (stoney : Bool) : (initDceip version stoney).length = 256 := by
  simp [initDceip]

@[simp] theorem initVbios_length (version : BitVec 4) : (initVbios version).length = 256 := by simp [initVbios]

@[simp] theorem interleaveMarks_length (a b c d : List W64) : (interleaveMarks a b c d).length = 72 := by
  simp [interleaveMarks, List.length_flatMap]

/-- Entry 4t + m of the interleaved marks is entry t of pass m. -/
theorem interleaveMarks_getElem? (a b c d : List W64) (t m : Nat) (ht : t < 18) (hm : m < 4) :
    (interleaveMarks a b c d)[4 * t + m]? = [a.getD t 0, b.getD t 0, c.getD t 0, d.getD t 0][m]? := by
  unfold interleaveMarks
  have key : ∀ (n t : Nat), t < n → ∀ start, ((List.range' start n).flatMap fun t =>
      [a.getD t 0, b.getD t 0, c.getD t 0, d.getD t 0])[4 * t + m]?
        = [a.getD (start + t) 0, b.getD (start + t) 0, c.getD (start + t) 0, d.getD (start + t) 0][m]? := by
    intro n
    induction n with
    | zero => intro t ht; omega
    | succ n ih =>
      intro t ht start
      rw [List.range'_succ, List.flatMap_cons]
      cases t with
      | zero => rw [List.getElem?_append_left (by simpa using hm)]; simp
      | succ t =>
        rw [List.getElem?_append_right (by simp; omega)]
        have : 4 * (t + 1) + m - [a.getD start 0, b.getD start 0, c.getD start 0, d.getD start 0].length = 4 * t + m := by
          simp; omega
        rw [this, ih t (by omega) (start + 1)]
        have : start + 1 + t = start + (t + 1) := by omega
        rw [this]
  have := key 18 t ht 0
  rw [← List.range_eq_range'] at this
  simpa using this

@[simp] theorem zeroDisplayOutput_marks_length : zeroDisplayOutput.marks.length = 72 := by simp [zeroDisplayOutput]

/-- The marks of an evaluation. -/
theorem evaluate_marks_length (env : CalcEnv) (c : CalcState) : (evaluate env c).1.marks.length = 72 := by
  simp only [evaluate, CalcM.bind_apply, CalcM.pure_apply, interleaveMarks_length]

/-! ## What ending a command leaves in memory -/

/-- RESULTS after it is stored. -/
theorem slot_storeResults (s : State) (r : Results) (k : Nat) (h : k < 2048) :
    (s.storeResults r).mem.slot (slotOffset resultsBase k) = some (r.slot k) := by
  have hk : k < r.slots.length := by simpa using h
  rw [State.storeResults_mem]
  simp only [slotOffset, Nat.mul_zero, Nat.add_zero]
  have := Memory.slot_storeSlots s.mem resultsBase r.slots k hk
  rw [slotOffset] at this
  rw [this, Results.slots_getElem]

theorem read_storeResults_outside (s : State) (r : Results) (a : Nat) (h : ¬(0x4000 ≤ a ∧ a < 0x8000)) :
    (s.storeResults r).mem.read a = s.mem.read a := by
  rw [State.storeResults_mem]
  refine Memory.read_storeSlots_outside _ _ _ _ ?_
  simp only [Results.slots_length, slotOffset, resultsBase]; omega

/-- OUTPUT slots 0 to 6 after they are stored. -/
theorem slot_storeOutput_scalar (s : State) (o : Output) (k : Nat) (h : k < 7) :
    (s.storeOutput o).mem.slot (slotOffset outputBase k) = some (o.scalars[k]'(by simpa using h)) := by
  rw [State.storeOutput_mem, Memory.slot_storeSlots_outside _ _ _ _ (by simp only [slotOffset, outputBase]; omega)]
  have := Memory.slot_storeSlots s.mem (slotOffset outputBase 0) o.scalars k (by simpa using h)
  simpa [slotOffset] using this

/-- OUTPUT slots from 8 after they are stored. -/
theorem slot_storeOutput_mark (s : State) (o : Output) (j : Nat) (h : j < o.marks.length) :
    (s.storeOutput o).mem.slot (slotOffset outputBase (8 + j)) = some o.marks[j] := by
  rw [State.storeOutput_mem]
  have := Memory.slot_storeSlots (s.mem.storeSlots (slotOffset outputBase 0) o.scalars) (slotOffset outputBase 8) o.marks j h
  have e : slotOffset (slotOffset outputBase 8) j = slotOffset outputBase (8 + j) := by simp only [slotOffset]; omega
  rwa [e] at this

theorem read_storeOutput_outside (s : State) (o : Output) (hm : o.marks.length = 72) (a : Nat)
    (h1 : ¬(0x2800 ≤ a ∧ a < 0x2838)) (h2 : ¬(0x2840 ≤ a ∧ a < 0x2A80)) :
    (s.storeOutput o).mem.read a = s.mem.read a := by
  rw [State.storeOutput_mem, Memory.read_storeSlots_outside, Memory.read_storeSlots_outside]
  · simp only [Output.scalars_length, slotOffset, outputBase]; omega
  · simp only [hm, slotOffset, outputBase]; omega

/-- A slot outside the slots of OUTPUT that a command stores. -/
theorem slot_storeOutput_outside (s : State) (o : Output) (hm : o.marks.length = 72) (a : Nat)
    (h : a + 8 ≤ 0x2800 ∨ 0x2A80 ≤ a) : (s.storeOutput o).mem.slot a = s.mem.slot a :=
  Memory.slot_congr _ _ _ fun i hi => read_storeOutput_outside s o hm _ (by omega) (by omega)

/-- The tables after INIT. -/
theorem slot_loadTables_dceip (s : State) (version : BitVec 4) (stoney : Bool) (k : Nat) (h : k < 256) :
    (s.loadTables version stoney).mem.slot (slotOffset dceipBase k)
      = some ((initDceip version stoney)[k]'(by simpa using h)) := by
  rw [State.loadTables_mem, Memory.slot_storeSlots_outside _ _ _ _ (by simp only [slotOffset, dceipBase, vbiosBase]; omega)]
  have := Memory.slot_storeSlots s.mem (slotOffset dceipBase 0) (initDceip version stoney) k (by simpa using h)
  simpa [slotOffset] using this

theorem slot_loadTables_vbios (s : State) (version : BitVec 4) (stoney : Bool) (k : Nat) (h : k < 256) :
    (s.loadTables version stoney).mem.slot (slotOffset vbiosBase k)
      = some ((initVbios version)[k]'(by simpa using h)) := by
  rw [State.loadTables_mem]
  have := Memory.slot_storeSlots (s.mem.storeSlots (slotOffset dceipBase 0) (initDceip version stoney))
    (slotOffset vbiosBase 0) (initVbios version) k (by simpa using h)
  simpa [slotOffset] using this

theorem read_loadTables_outside (s : State) (version : BitVec 4) (stoney : Bool) (a : Nat)
    (h : ¬(0x1000 ≤ a ∧ a < 0x2000)) : (s.loadTables version stoney).mem.read a = s.mem.read a := by
  rw [State.loadTables_mem, Memory.read_storeSlots_outside, Memory.read_storeSlots_outside]
  · simp only [initDceip_length, slotOffset, dceipBase]; omega
  · simp only [initVbios_length, slotOffset, vbiosBase]; omega

/-! ## What a BWE command that completes has done -/

/-- Everything `withLegalMode` can answer as a next state. -/
theorem withLegalMode_next {s t : State} {needs : Mode → Bool} {run : Mode → State}
    (h : withLegalMode s needs run = .next t) :
    (loadMode s.mem = .illegal ∧ t = s.raiseBwe .ill)
      ∨ ∃ mode, loadMode s.mem = .legal mode ∧ t = run mode ∧ (needs mode = true → capabilitiesWritten s.mem) := by
  unfold withLegalMode at h
  generalize loadMode s.mem = l at h ⊢
  cases l with
  | unwritten a => exact absurd h (by simp)
  | illegal => exact .inl ⟨rfl, (Host.Outcome.next.inj h).symm⟩
  | legal mode =>
    refine .inr ⟨mode, rfl, ?_⟩
    simp only at h
    by_cases hn : needs mode = true
    · rw [if_pos hn] at h
      generalize hf : firstUnwritten s.mem capabilityOffsets = f at h
      cases f with
      | some a => exact absurd h (by simp)
      | none => exact ⟨(Host.Outcome.next.inj h).symm, fun _ => (capabilities_iff _).1 hf⟩
    · rw [if_neg hn] at h
      exact ⟨(Host.Outcome.next.inj h).symm, fun h => absurd h hn⟩

/-- Everything BWE.CALC can answer as a next state. -/
theorem execBweCalc_next {s t : State} (h : execBweCalc s = .next t) :
    t = s.raiseBwe .ill ∨ ∃ mode, loadMode s.mem = .legal mode ∧ t = s.calc (calcEnv s.mem mode)
      ∧ capabilitiesWritten s.mem :=
  (withLegalMode_next h).imp (·.2) fun ⟨mode, h1, h2, h3⟩ => ⟨mode, h1, h2, h3 rfl⟩

/-- Everything BWE.BWCALCS can answer as a next state. -/
theorem execBweBwcalcs_next {s t : State} (h : execBweBwcalcs s = .next t) :
    t = s.raiseBwe .ill ∨ ∃ mode, loadMode s.mem = .legal mode
      ∧ ((mode.n = 0 ∧ t = s.evaluateNothing)
        ∨ (0 < mode.n ∧ t = s.evaluate (calcEnv s.mem mode) ∧ capabilitiesWritten s.mem)) := by
  refine (withLegalMode_next h).imp (·.2) fun ⟨mode, h1, h2, h3⟩ => ⟨mode, h1, ?_⟩
  by_cases hn : mode.n = 0
  · rw [if_pos hn] at h2; exact .inl ⟨hn, h2⟩
  · rw [if_neg hn] at h2
    exact .inr ⟨Nat.pos_of_ne_zero hn, h2, h3 (by simp; omega)⟩

/-! ## The commands -/

@[simp] theorem State.calc_mem (s : State) (env : CalcEnv) :
    (s.calc env).mem = (s.storeResults (calcCore env (CalcState.start s.draws)).2.results).mem := by
  simp [State.calc]

@[simp] theorem State.evaluate_mem (s : State) (env : CalcEnv) :
    (s.evaluate env).mem = ((s.storeResults (Machine.evaluate env (CalcState.start s.draws)).2.results).storeOutput
      (Machine.evaluate env (CalcState.start s.draws)).1).mem := by
  simp [State.evaluate]

@[simp] theorem State.evaluateNothing_mem (s : State) : s.evaluateNothing.mem = (s.storeOutput zeroDisplayOutput).mem := rfl

/-- What CALC leaves of the other unit and of the host's side. -/
theorem State.calc_frame (s : State) (env : CalcEnv) : BweFrame s (s.calc env) := by
  constructor <;> simp [State.calc]

theorem State.evaluate_frame (s : State) (env : CalcEnv) : BweFrame s (s.evaluate env) := by
  constructor <;> simp [State.evaluate]

theorem State.evaluateNothing_frame (s : State) : BweFrame s s.evaluateNothing := by
  constructor <;> simp [State.evaluateNothing]

end Sys2Proof.Machine
end

