-- ==== Sys2Proof/Tests/Slice0.lean ====
section
/-!
SUPPORT. Tests. The expected words and values are those of spec/95_test_vectors.md and of the worked encodings of
30_encoding.md, unless a comment answers how they follow from a rule by hand. A theorem named `test_<Name>_hypotheses…` shows
that the hypotheses of Obligations.<Name> can be met.
-/

namespace Sys2Proof.Tests

open Sys2Proof Sys2Proof.Machine

set_option Elab.async false

/-! ## WellFormed: a term that each check refuses -/

/-- ADD with bit 0 set (2.9). -/
theorem test_wellFormed_r3_refuses_zero_field : Format.zeroFieldsOk .r3 0x04000001 = false := by decide

/-- NEG with rs2 = 1 (2.9). -/
theorem test_wellFormed_r2_refuses_rs2 : Format.zeroFieldsOk .r2 0x18004000 = false := by decide

/-- LDI with bit 16 set (2.9). -/
theorem test_wellFormed_imm_refuses_bit16 : Format.zeroFieldsOk .imm 0x60010000 = false := by decide

/-- NOP with rd = 1 (2.9). -/
theorem test_wellFormed_none_refuses_rd : Format.zeroFieldsOk .none 0x6C400000 = false := by decide

/-- INIT with bit 31 set (2.9). -/
theorem test_wellFormed_bwe_refuses_bit31 : bweHighBitsOk 0x80000001 = false := by decide

/-- CALC with VERSION = 1 (2.9). -/
theorem test_wellFormed_bwe_refuses_version : bweInitFieldsZero 0x00000012 = false := by decide

/-- R107: the short forms are for -32768..32767, and LFRAC's scratch register is not its destination. -/
theorem test_wellFormed_li64Short_refuses :
    Pseudo.wellFormed (.li64Short 2 32768) = false ∧ Pseudo.wellFormed (.li64Short 2 (-32769)) = false := by decide

theorem test_wellFormed_lfxShort_refuses :
    Pseudo.wellFormed (.lfxShort 2 (-32769)) = false ∧ Pseudo.wellFormed (.lfxShort 2 32768) = false := by decide

theorem test_wellFormed_lfrac_refuses : Pseudo.wellFormed (.lfrac 2 1 3 2) = false := by decide

/-! ## Decoding: a word of every command, written out from R91, R94 and R100 -/

theorem test_decode_add : decode .fxu 0x0448C000 = .ok (.add 1 2 3) := by decide

theorem test_decode_sub : decode .fxu 0x0BC24000 = .ok (.sub 15 0 9) := by decide

theorem test_decode_mul : decode .fxu 0x0C48C000 = .ok (.mul 1 2 3) := by decide

theorem test_decode_div : decode .fxu 0x13C24000 = .ok (.div 15 0 9) := by decide

theorem test_decode_mod : decode .fxu 0x1448C000 = .ok (.mod 1 2 3) := by decide

theorem test_decode_floor : decode .fxu 0x23C24000 = .ok (.floor 15 0 9) := by decide

theorem test_decode_ceil : decode .fxu 0x2448C000 = .ok (.ceil 1 2 3) := by decide

theorem test_decode_fromfrac : decode .fxu 0x2FC24000 = .ok (.fromfrac 15 0 9) := by decide

theorem test_decode_min : decode .fxu 0x3448C000 = .ok (.min 1 2 3) := by decide

theorem test_decode_max : decode .fxu 0x3BC24000 = .ok (.max 15 0 9) := by decide

theorem test_decode_clt : decode .fxu 0x4048C000 = .ok (.clt 1 2 3) := by decide

theorem test_decode_cle : decode .fxu 0x47C24000 = .ok (.cle 15 0 9) := by decide

theorem test_decode_ceq : decode .fxu 0x4848C000 = .ok (.ceq 1 2 3) := by decide

theorem test_decode_cne : decode .fxu 0x4FC24000 = .ok (.cne 15 0 9) := by decide

theorem test_decode_cgt : decode .fxu 0x5048C000 = .ok (.cgt 1 2 3) := by decide

theorem test_decode_cge : decode .fxu 0x57C24000 = .ok (.cge 15 0 9) := by decide

theorem test_decode_neg : decode .fxu 0x18C80000 = .ok (.neg 3 2) := by decide

theorem test_decode_abs : decode .fxu 0x1CC80000 = .ok (.abs 3 2) := by decide

theorem test_decode_fromint : decode .fxu 0x28C80000 = .ok (.fromint 3 2) := by decide

theorem test_decode_toint : decode .fxu 0x30C80000 = .ok (.toint 3 2) := by decide

theorem test_decode_mov : decode .fxu 0x68C40000 = .ok (.mov 3 1) := by decide

theorem test_decode_ldi : decode .fxu 0x60808000 = .ok (.ldi 2 0x8000) := by decide

theorem test_decode_ldih : decode .fxu 0x64801234 = .ok (.ldih 2 0x1234) := by decide

theorem test_decode_nop : decode .fxu 0x6C000000 = .ok .nop := by decide

theorem test_decode_bweNop : decode .bwe 0x00000000 = .ok .bweNop := by decide

theorem test_decode_bweInit :
    decode .bwe 0x00000111 = .ok (.bweInit 1 true) ∧ decode .bwe 0x000000F1 = .ok (.bweInit 15 false) := by decide

theorem test_decode_bweCalc : decode .bwe 0x00000002 = .ok .bweCalc := by decide

theorem test_decode_bweBwcalcs : decode .bwe 0x00000003 = .ok .bweBwcalcs := by decide

/-- The illegal words of 2.9. -/
theorem test_decode_reserved_opcodes :
    [0x00000000, 0x3C000000, 0x58000000, 0xFC000000].map decodeFxu
      = List.replicate 4 (.error .reservedOpcode) := by decide

theorem test_decode_nonzero_zero_fields :
    [0x04000001, 0x18004000, 0x30C84000, 0x60010000, 0x6C400000, 0x6C000001].map decodeFxu
      = List.replicate 6 (.error .nonzeroZeroField) := by decide

theorem test_decode_reserved_cmds :
    decode .bwe 0x00000004 = .error .reservedCmd ∧ decode .bwe 0x0000000F = .error .reservedCmd := by decide

theorem test_decode_nonzero_bwe_fields :
    [0x00000012, 0x00000103, 0x00000201, 0x80000001].map decodeBwe
      = List.replicate 4 (.error .nonzeroBweField) := by decide

/-- R94, R100: no word matches two rows: any two rows differ in a bit that both masks test. -/
theorem test_rows_are_disjoint :
    ∀ u ∈ [CmdUnit.fxu, CmdUnit.bwe], (opcodeRows u).Pairwise fun r r' =>
      (r.matchWord ^^^ r'.matchWord) &&& (r.mask &&& r'.mask) ≠ 0 := by decide

/-! ## One FXU command -/

/-- FR2 and FR3 hold these values, and the host is about to write a word to FXU_CMD. -/
def fxuState (w : W32) (a b : W64) : State :=
  { (State.reset.writeFr 2 a).writeFr 3 b with pending := [w32 0x004 w] }

/-- One register and FXU_STATUS after a step. -/
def seen (r : Reg) : Host.Outcome State Fault Refusal → Option (W64 × W32)
  | .next t => some (t.frValue r, t.fxuStatus)
  | .fault _ => none
  | .refused _ => none

/-- FR1 and FXU_STATUS after one step that issues the word. -/
def afterFxu (w : W32) (a b : W64) : Option (W64 × W32) := seen 1 (step (fxuState w a b))

/-- FXU_STATUS after one step that issues the word. -/
def statusAfterFxu (w : W32) (a b : W64) : Option W32 := (afterFxu w a b).map (·.2)

theorem test_add_wraps : afterFxu 0x0448C000 0x7FFFFFFFFFFFFFFF 0x1 = some (0x8000000000000000, 4) := by decide

theorem test_add_exact_minimum :
    afterFxu 0x0448C000 0xC000000000000000 0xC000000000000000 = some (0x8000000000000000, 0) := by decide

theorem test_sub_wraps : afterFxu 0x0848C000 0x0 0x8000000000000000 = some (0x8000000000000000, 4) := by decide

theorem test_sub_exact :
    afterFxu 0x0848C000 0xFFFFFFFFFFFFFFFF 0x7FFFFFFFFFFFFFFF = some (0x8000000000000000, 0) := by decide

theorem test_mul_rounding_term :
    afterFxu 0x0C48C000 0xFFFFFFFFFE800000 0x2400000 = some (0xFFFFFFFFFC9FFFFF, 0) := by decide

theorem test_mul_overflows :
    afterFxu 0x0C48C000 0x80000000000 0x100000000000 = some (0x8000000000000000, 4) := by decide

theorem test_div_negative_tie :
    afterFxu 0x1048C000 0xFFFFFFFFFFFFFFFF 0x2000000 = some (0xFFFFFFFFFFFFFFFF, 0) := by decide

theorem test_div_overflows :
    afterFxu 0x1048C000 0x7FFFFFFFFFFFFFFF 0x800000 = some (0xFFFFFFFFFFFFFFFE, 4) := by decide

theorem test_mod_unsigned : afterFxu 0x1448C000 0xFFFFFFFFFF000000 0x3000000 = some (0x0, 0) := by decide

theorem test_mod_by_zero : statusAfterFxu 0x1448C000 0x9000000 0 = some 2 := by decide

theorem test_neg_minimum : afterFxu 0x18480000 0x8000000000000000 0x0 = some (0x8000000000000000, 4) := by decide

theorem test_neg_maximum : afterFxu 0x18480000 0x7FFFFFFFFFFFFFFF 0x0 = some (0x8000000000000001, 0) := by decide

theorem test_abs_minimum : afterFxu 0x1C480000 0x8000000000000000 0x0 = some (0x8000000000000000, 4) := by decide

theorem test_abs_negative : afterFxu 0x1C480000 0xFFFFFFFFFE800000 0x0 = some (0x1800000, 0) := by decide

theorem test_floor_toward_zero :
    afterFxu 0x2048C000 0xFFFFFFFFF9000000 0x2000000 = some (0xFFFFFFFFFA000000, 0) := by decide

theorem test_floor_negative_significance :
    afterFxu 0x2048C000 0x3E8000000 0xFFFFFFFF00000000 = some (0x300000000, 0) := by decide

theorem test_ceil_away_from_zero :
    afterFxu 0x2448C000 0xFFFFFFFFF9000000 0x2000000 = some (0xFFFFFFFFF8000000, 0) := by decide

theorem test_ceil_overflows :
    afterFxu 0x2448C000 0x7FFFFFFFFFFFFFFF 0x1000000 = some (0x8000000000000000, 4) := by decide

theorem test_fromint_strict_bound : afterFxu 0x28480000 0x7FFFFFFFFF 0x0 = some (0x7FFFFFFFFF000000, 4) := by decide

theorem test_fromint_largest : afterFxu 0x28480000 0x7FFFFFFFFE 0x0 = some (0x7FFFFFFFFE000000, 0) := by decide

theorem test_fromfrac_four_thirds : afterFxu 0x2C48C000 0x4 0x3 = some (0x1555555, 0) := by decide

theorem test_fromfrac_by_zero : statusAfterFxu 0x2C48C000 0x5 0 = some 2 := by decide

theorem test_toint_floors : afterFxu 0x30480000 0xFFFFFFFFFE800000 0x0 = some (0xFFFFFFFFFFFFFFFE, 0) := by decide

theorem test_toint_overflows : afterFxu 0x30480000 0x80000000000000 0x0 = some (0xFFFFFFFF80000000, 4) := by decide

theorem test_min_signed : afterFxu 0x3448C000 0xFFFFFFFFFFFFFFFF 0x0 = some (0xFFFFFFFFFFFFFFFF, 0) := by decide

theorem test_max_signed :
    afterFxu 0x3848C000 0x8000000000000000 0x7FFFFFFFFFFFFFFF = some (0x7FFFFFFFFFFFFFFF, 0) := by decide

theorem test_clt_signed : afterFxu 0x4048C000 0x8000000000000000 0x7FFFFFFFFFFFFFFF = some (0x1, 0) := by decide

theorem test_clt_equal : afterFxu 0x4048C000 0x1555555 0x1555555 = some (0x0, 0) := by decide

theorem test_cle_signed : afterFxu 0x4448C000 0x8000000000000000 0x7FFFFFFFFFFFFFFF = some (0x1, 0) := by decide

theorem test_cle_equal : afterFxu 0x4448C000 0x1555555 0x1555555 = some (0x1, 0) := by decide

theorem test_ceq_signed : afterFxu 0x4848C000 0x8000000000000000 0x7FFFFFFFFFFFFFFF = some (0x0, 0) := by decide

theorem test_ceq_equal : afterFxu 0x4848C000 0x1555555 0x1555555 = some (0x1, 0) := by decide

theorem test_cne_signed : afterFxu 0x4C48C000 0x8000000000000000 0x7FFFFFFFFFFFFFFF = some (0x1, 0) := by decide

theorem test_cne_equal : afterFxu 0x4C48C000 0x1555555 0x1555555 = some (0x0, 0) := by decide

theorem test_cgt_signed : afterFxu 0x5048C000 0x8000000000000000 0x7FFFFFFFFFFFFFFF = some (0x0, 0) := by decide

theorem test_cgt_equal : afterFxu 0x5048C000 0x1555555 0x1555555 = some (0x0, 0) := by decide

theorem test_cge_signed : afterFxu 0x5448C000 0x8000000000000000 0x7FFFFFFFFFFFFFFF = some (0x0, 0) := by decide

theorem test_cge_equal : afterFxu 0x5448C000 0x1555555 0x1555555 = some (0x1, 0) := by decide

theorem test_ldi_sign_extends : seen 2 (step (fxuState 0x60808000 7 7)) = some (0xFFFFFFFFFFFF8000, 0) := by decide

theorem test_ldih_shifts_in :
    seen 2 (step (fxuState 0x64801234 0xFFFFFFFFFFFFFFFF 7)) = some (0xFFFFFFFFFFFF1234, 0) := by decide

/-- MOV f1, f2 by R91: op 0x1A, rd 1, rs1 2. -/
theorem test_mov_copies :
    seen 1 (step (fxuState 0x68480000 0x123456789ABCDEF0 7)) = some (0x123456789ABCDEF0, 0) := by decide

theorem test_nop_writes_nothing : seen 2 (step (fxuState 0x6C000000 5 7)) = some (5, 0) := by decide

/-- ADD f2, f2, f2 by R109: the sources are read before the destination is written. -/
theorem test_source_is_destination : seen 2 (step (fxuState 0x04888000 3 7)) = some (6, 0) := by decide

/-- DIV by zero sets DZ and leaves its source (2.3). -/
theorem test_div_by_zero_and_others_kept :
    (match step (fxuState 0x1048C000 0x1000000 0) with
      | .next t => some (t.frValue 2, t.fxuStatus)
      | .fault _ => none
      | .refused _ => none) = some (0x1000000, 2) := by decide

/-! ## The status registers and INIT (2.10) -/

/-- FXU_STATUS, BWE_STATUS and BWE_VERSION after a step. -/
def statusSeen : Host.Outcome State Fault Refusal → Option (W32 × W32 × W32)
  | .next t => some (t.fxuStatus, t.bweStatus, t.bweVersion)
  | .fault _ => none
  | .refused _ => none

/-- A state with this FXU_STATUS and BWE_STATUS, and one access of the host to come. -/
def statusState (fxu bwe : W32) (e : HostEvent) : State :=
  { State.reset with fxuStatus := fxu, bweStatus := bwe, pending := [e] }

theorem test_ill_accumulates :
    statusSeen (step (statusState 0x2 0 (w32 0x004 0x00000000))) = some (3, 0, 0) := by decide

theorem test_w1c_zero : statusSeen (step (statusState 0x3 0 (w32 0x008 0x00000000))) = some (3, 0, 0) := by decide

theorem test_w1c_ill : statusSeen (step (statusState 0x3 0 (w32 0x008 0x00000001))) = some (2, 0, 0) := by decide

theorem test_w1c_reserved : statusSeen (step (statusState 0x2 0 (w32 0x008 0xFFFFFFF8))) = some (2, 0, 0) := by decide

/-- R26: only bits 1 to 3 of BWE_STATUS clear. -/
theorem test_w1c_bwe_keeps_flags :
    statusSeen (step (statusState 0 0x3F (w32 0x010 0xFFFFFFFF))) = some (0, 0x31, 0) := by decide

theorem test_bwe_ill : statusSeen (step (statusState 0 0 (w32 0x00C 0x00000004))) = some (0, 2, 0) := by decide

theorem test_bweNop : statusSeen (step (statusState 1 0x10 (w32 0x00C 0x00000000))) = some (1, 0x10, 0) := by decide

theorem test_init_version :
    statusSeen (step (statusState 0 0x30 (w32 0x00C 0x00000111))) = some (0, 0x30, 0x31)
      ∧ statusSeen (step (statusState 0 0 (w32 0x00C 0x00000121))) = some (0, 0, 0x22) := by decide +kernel

theorem test_init_unknown_version :
    statusSeen (step (statusState 0 0 (w32 0x00C 0x000000F1))) = some (0, 0, 0x2F) := by decide +kernel

theorem test_capability_pipes :
    capDceipSlot 1 false 0 = 3 ∧ capDceipSlot 2 false 0 = 6
      ∧ (initDceip 1 true)[0]? = some 2 ∧ (initDceip 2 true)[0]? = some 6 ∧ (initDceip 0 false)[0]? = some 0 := by decide +kernel

/-- R311: CALC and BWCALCS right after reset need a MODE that holds no value. -/
theorem test_calc_faults_from_reset :
    (match exec .bweCalc State.reset with
      | .fault f => some f
      | .next _ => none
      | .refused _ => none) = some (.unwrittenSlot 0x2000) := by decide

theorem test_bwcalcs_faults_from_reset :
    (match exec .bweBwcalcs State.reset with
      | .fault f => some f
      | .next _ => none
      | .refused _ => none) = some (.unwrittenSlot 0x2000) := by decide

/-! ## CALC_CORE under concrete OPEN parameters (2.11 to 2.13, E6 to E9) -/

/-- A stage formula that answers this integer. -/
def answers (n : Int) : Config.StageProgram := constantProgram (fx n)

/-- Stage formulas that answer the inputs of the vectors of 2.11 and 2.12, whatever they read. -/
def vectorStages : Config.StageFns where
  lbPartitions := fun _ _ _ => answers 5
  bytesPerRequest := fun _ _ _ => answers 64
  usefulBytesPerRequest := fun _ _ _ => answers 64
  linesInterleaved := fun _ _ _ => answers 1
  latencyHidingLines := fun _ _ _ => answers 1
  vFilterInit := fun _ _ _ => answers 6
  linesInPerLineOutBeginning := fun _ _ _ => answers 1
  requestBandwidth := fun _ _ _ => answers 100
  dataBufferSize := fun _ _ _ => answers 1000
  throttledBufferSize := fun _ _ _ => answers 77
  chunkRequestLimit := fun _ _ _ => answers 5
  pteRequestLimit := fun _ _ _ => answers 6
  cursorAndPteDramOverhead := fun _ _ => answers 1
  dmifSclkBandwidth := fun _ _ => answers 4
  mcifwrSclkBandwidth := fun _ _ => answers 0
  toGbytePerSecond := fun _ _ total => constantProgram total
  availableDramBandwidth := fun _ _ _ => answers 100000
  availableSclkBandwidth := fun _ _ _ => answers 100000
  pageCloseOpenOk := fun _ _ => constantProgram 1
  hidingTime := fun _ _ _ _ _ => answers 12
  burstTime := fun _ _ _ _ => answers 1
  stateChangeDispclk := fun _ _ _ _ _ => answers 100
  dispclkPixelThroughput := fun _ _ => answers 150
  dispclkScalerThroughput := fun _ _ => answers 200
  dispclkReadRequestThroughput := fun _ _ => answers 50
  lineSourceTransferTime := fun _ _ _ => answers 2
  totalUrgentLatency := fun _ _ => answers 3
  requestTimeOverhead := fun _ _ _ => constantProgram 0x800000
  cursorBufferLimit := fun _ _ _ => answers 5
  dramAccessEfficiency := fun _ _ => answers 1
  writeAccessEfficiency := fun _ _ => answers 1
  averageBandwidthNoCompression := fun _ _ => answers 1
  averageBandwidth := fun _ _ => answers 1
  stutterEfficiency := fun _ _ => answers 1
  immediateFlipLatency := fun _ _ => answers 1
  worstCaseLatencyNonDisplay := fun _ _ => answers 1

/-- The reference HSR_VSR_OK of R214: a ratio up to 4 and up to the taps. -/
def vectorRatioOk (_ : Axis) (ratio taps : W64) (_ : Bool) (_ : SurfaceType) : Bool :=
  Fx.le ratio (fx 4) && Fx.le ratio (fx taps.toInt)

/-- The bytes per pixel of underlay planes in 2.11. -/
def vectorUnderlayBytes : UnderlayFormat → Plane → W64
  | .f420, .luma => 1
  | .f420, .chroma => 2
  | .f422, _ => 2
  | .f444, _ => 4

/-- The display of scenario A (E7). -/
def displayA : Display where
  hTotal := fx 2200
  pixelRate := fx 148
  srcWidth := fx 1920
  srcHeight := fx 1080
  hsr := fx 1
  vsr := fx 1
  hTaps := 4
  vTaps := 4
  bytesPerPixel := 4
  rotationAngle := 0
  stereoMode := .mono
  interlace := false
  tilingMode := .linear
  fbcEnable := false
  scatterGatherEnable := false

/-- A MODE with these displays. -/
def modeWith (displays : List Display) : Mode := { (default : Mode) with displays := displays }

/-- The VBIOS of 2.12 and 2.13. -/
def vbiosV : Vbios :=
  { (default : Vbios) with
    sclk := ⟨fx 300, fx 600, fx 800⟩, yclk := ⟨fx 400, fx 800, fx 1000⟩, maxDispclk := ⟨fx 300, fx 450, fx 600⟩
    nbpStateChangeLatency := fx 4, selfRefreshExitLatency := fx 2, blackoutDuration := fx 9 }

/-- Three graphics pipes, one underlay and one write-back pipe. -/
def dceipV : Dceip :=
  { (default : Dceip) with
    numberOfGraphicsPipes := 3, numberOfUnderlayPipes := 1, numberOfWritebackPipes := 1, pteRequestQueueSize := 100
    dispclkRampingFactor := 0x1100000, globalRequestBufferSize := fx 2000, singleDisplayGraphicsBufferFactor := fx 2 }

/-- What a calculation with these displays reads. -/
def envWith (displays : List Display) : CalcEnv :=
  ⟨⟨vectorStages, vectorRatioOk, vectorUnderlayBytes, (6, 8, 10, 12)⟩, dceipV, vbiosV, modeWith displays⟩

/-- Some RESULTS slots after a CALC_CORE. -/
def slotsOf (env : CalcEnv) (ks : List Nat) : List W64 := ks.map (resultsOf env 0).slot

/-- Which surface slots a CALC_CORE enables. -/
def enabledOf (env : CalcEnv) : List Slot := allSlots.filter (resultsOf env 0).enabled

/-- E7: values fixed by the rules whatever STAGE_FNS is. -/
theorem test_scenarioA_stages :
    slotsOf (envWith [displayA]) [132, 148, 180, 196, 212, 356, 372, 33, 1, 484, 516]
      = [1, 0, 4, 0x780000000, 0x438000000, 0, 0x800000000, 1, 0, 1, 0x1000000] := by decide +kernel

/-- E8. -/
theorem test_scenarioB :
    slotsOf (envWith (List.replicate 6 displayA)) [0, 1, 9, 12, 14, 33] = [1, 1, 0x270F000000, 0x270F000000, 4, 6] := by decide +kernel

/-- E9. -/
theorem test_scenarioC :
    slotsOf (envWith [{ displayA with rotationAngle := 90, tilingMode := .tiled, fbcEnable := true }])
      [5, 6, 356, 196, 212, 0, 14] = [5, 0, 1, 0x780000000, 0x438000000, 1, 4] := by decide +kernel

/-- 2.11, slot enables. -/
theorem test_enables_underlay :
    enabledOf { envWith [displayA, displayA, displayA] with
        mode := { modeWith [displayA, displayA, displayA] with d1UnderlayMode := .blended, underlayFormat := .f444 } }
      = [2, 4, 5, 6] := by decide +kernel

theorem test_enables_underlay_only :
    enabledOf { envWith [displayA] with
        mode := { modeWith [displayA, displayA] with d0UnderlayMode := .underlayOnly, underlayFormat := .f422 } }
      = [0, 5] := by decide +kernel

theorem test_enables_writeback :
    enabledOf { envWith [] with mode := { modeWith [displayA] with writebackEnable := true } } = [4, 10, 11]
      ∧ enabledOf { envWith [] with mode := { modeWith [] with writebackEnable := true } } = [] := by decide +kernel

/-- R208, R209: the halved chroma plane (960 by 540, hsr 0xAAAAAB, vsr 1.0), swapped. -/
theorem test_geometry_chroma_swapped :
    slotsOf { envWith [] with mode := { modeWith [displayA] with
        d0UnderlayMode := .blended, underlay := { srcWidth := fx 1920, srcHeight := fx 1080, hsr := 0x1555555, vsr := fx 2
                                                  hTaps := 4, vTaps := 4, rotationAngle := 90, tilingMode := .tiled
                                                  scatterGatherEnable := false } } } [193, 209, 225, 241, 164]
      = [0x21C000000, 0x3C0000000, 0x1000000, 0xAAAAAB, 1] := by decide +kernel

theorem test_geometry_interlace :
    slotsOf (envWith [{ displayA with interlace := true, vsr := 0x1555555 }]) [244] = [0x2AAAAAA] := by decide +kernel

theorem test_chunks_pan :
    slotsOf { envWith [] with mode := { modeWith [{ displayA with srcWidth := fx 1800 }] with panning := .anyLines } } [372]
      = [0x780000000] := by decide +kernel

/-- 2.11, snapping. -/
theorem test_snap_lines :
    [0x800000, 0x1000001, 0x1555555, 0x1555556, 0x1800001, 0x2000001, 0x3000001, 0x8000000].map snapLines
      = [0x1000000, 0x1555555, 0x1555555, 0x1800000, 0x2000000, 0x3000000, 0x4000000, 0x4000000] := by decide +kernel

theorem test_ratio_checks :
    slotsOf (envWith [{ displayA with hsr := fx 2, hTaps := 1 }]) [2, 3] = [6, 0]
      ∧ slotsOf (envWith [{ displayA with interlace := true, vTaps := 1 }]) [2, 3] = [0, 7] := by decide +kernel

theorem test_line_buffer_check :
    slotsOf (envWith [{ displayA with vTaps := 5 }]) [4] = [1] ∧ slotsOf (envWith [displayA]) [4] = [0] := by decide +kernel

/-- 2.12: data_buffer_size, then the three watermarks. -/
theorem test_buffers_and_watermarks :
    slotsOf (envWith [displayA]) [564, 628, 644, 660] = [0x7D0000000, 0x6800000, 0xFFFFFFFFFF800000, 0xA800000] := by decide +kernel

theorem test_buffers_and_watermarks_two :
    slotsOf { envWith [displayA, displayA] with vbios := { vbiosV with blackoutDuration := 0 } } [564, 644]
      = [0x4D000000, 0x5000000] := by decide +kernel

/-- R223: a throttled size is at most the unthrottled one (FX(1000)), whatever the formula answers. -/
theorem test_throttled_is_bounded :
    slotsOf
        { envWith [displayA, displayA] with
          params :=
            { (envWith []).params with stage := { vectorStages with throttledBufferSize := fun _ _ _ => answers 3000 } } }
        [564]
      = [0x3E8000000] := by decide +kernel

/-- R231, R235: a formula that divides by zero goes on with a free value, and DZ is recorded. -/
theorem test_formula_divides_by_zero (c : CalcState) :
    let out := callStage (envWith []) (fun _ => { ops := [.word 1, .word 0, .binary .div 0 1, .binary .max 2 2], value := 3 }) c
    out.2.dz = true ∧ out.2.draws = c.draws + 1 ∧ out.1 = Fx.max (Config.draw c.draws) (Config.draw c.draws) := ⟨rfl, rfl, rfl⟩

/-- R225, by hand: 12 - 4 - 1 for nbp at tier pairs (0, 0) and (2, 2), 12 - 2 - 1 for cpuc; slot 36 + 18X + 3y + s. -/
theorem test_margin :
    slotsOf (envWith [displayA]) [36, 72, 44] = [0x7000000, 0x9000000, 0x7000000] := by decide +kernel

/-- 2.12, dispclk. -/
theorem test_dispclk :
    [200, 290, 300, 400, 590, 601].map (fun n => chooseDispclk vbiosV (fx n) ((Fx.mul (fx n) 0x1100000).word?.getD 0))
      = [(0xD4800000, 0), (0x12C000000, 0), (0x12C000000, 0), (0x1A9000000, 1), (0x258000000, 2), (0x270F000000, 3)] := by decide +kernel

/-- RESULTS before stage 9 in the tier-selection vectors of 2.12, with these margins of cpup at low and mid sclk. -/
def tierInputs (nbp : Bool) (cpupMargin : W64) : CalcState :=
  let cell : GridCell := ⟨0, 0⟩
  let row : PerTier GridCell := ⟨cell, cell, cell⟩
  let grid : Grid := ⟨row, row, row⟩
  let cpupRow : PerTier GridCell := ⟨⟨cpupMargin, 0⟩, ⟨cpupMargin, 0⟩, cell⟩
  { CalcState.start 0 with
    results := { Results.zero with
      stateChangeEnable := ⟨nbp, true, true⟩, grid := ⟨grid, ⟨cpupRow, cpupRow, cpupRow⟩, grid⟩
      availableDramBandwidth := ⟨fx 10, fx 20, fx 30⟩, availableSclkBandwidth := ⟨fx 5, fx 10, fx 15⟩ } }

/-- What stage 9 writes: the two levels and the two clocks. -/
def tiersSeen (c : CalcState) (dram sclk : Int) : Nat × Nat × W64 × W64 :=
  let r := (stage9 (envWith []) ⟨fx dram, fx sclk⟩ c).2.results
  (r.yClkLevel.rank, r.sclkLevel.rank, r.requiredYclk, r.requiredSclk)

theorem test_tiers_T2 : tiersSeen (tierInputs true 0) 10 4 = (0, 0, fx 400, fx 300) := by decide +kernel

theorem test_tiers_T3 : tiersSeen (tierInputs false 0) 15 4 = (2, 0, fx 1000, fx 300) := by decide +kernel

theorem test_tiers_T4 : tiersSeen (tierInputs true (-1)) 15 4 = (1, 2, fx 800, fx 800) := by decide +kernel

theorem test_tiers_T5 : tiersSeen (tierInputs true 0) 31 4 = (2, 0, fx 9999, fx 300) := by decide +kernel

theorem test_tiers_T6 : tiersSeen (tierInputs true 0) 15 16 = (1, 2, fx 800, fx 9999) := by decide +kernel

/-- 2.13. -/
theorem test_operating_points :
    (operatingPoint vbiosV .b).sclk = ⟨fx 600, fx 600, fx 800⟩ ∧ (operatingPoint vbiosV .c).sclk = vbiosV.sclk
      ∧ (operatingPoint vbiosV .c).yclk = ⟨fx 800, fx 800, fx 1000⟩
      ∧ (operatingPoint vbiosV .d).sclk = ⟨fx 800, fx 800, fx 800⟩
      ∧ (operatingPoint vbiosV .d).yclk = ⟨fx 1000, fx 1000, fx 1000⟩ := by decide +kernel

theorem test_conv_khz :
    [0x270F000000, 0x1555555, 0x10624D, 0xFFFFFFFFFFFFDF3B].map (fun x => (convKhz x (CalcState.start 0)).1)
      = [9999000, 1333, 63, -1] := by decide +kernel

theorem test_conv_khz_overflow : (convKhz 0x400000000000 (CalcState.start 0)).2.ov = true := by decide +kernel

theorem test_verdict_inclusive :
    verdict 600000 800000 600000 800000 = true ∧ verdict 600001 800000 600000 800000 = false
      ∧ verdict 600000 800001 600000 800000 = false := by decide +kernel

/-- E6. -/
theorem test_taps_boundaries : [0, 1, 16, 17].map tapsLegal = [false, true, true, false] := by decide +kernel

/-! ## The hypotheses of the obligations can be met -/

theorem test_EncodeDecode_hypotheses :
    decode .fxu 0x64801234 = .ok (.ldih 2 0x1234) ∧ decode .bwe 0x00000002 = .ok .bweCalc := by decide

theorem test_StepRunsDecoded_hypotheses :
    (statusState 0 0 (w32 0x004 0x6C000000)).pending = [w32 (commandOffset .fxu) 0x6C000000] ∧ decode .fxu 0x6C000000 = .ok .nop
      ∧ (statusState 0 0 (w32 0x00C 0x00000011)).pending = [w32 (commandOffset .bwe) 0x00000011]
      ∧ decode .bwe 0x00000011 = .ok (.bweInit 1 false) := by decide

theorem test_IllegalWordOnlySetsIll_hypotheses :
    (statusState 0 0 (w32 0x004 0x3C000000)).pending = [w32 (commandOffset .fxu) 0x3C000000]
      ∧ (opcodeRows .fxu).filter (fun r => r.matches 0x3C000000) = []
      ∧ (statusState 0 0 (w32 0x00C 0x00000103)).pending = [w32 (commandOffset .bwe) 0x00000103]
      ∧ (opcodeRows .bwe).filter (fun r => r.matches 0x00000103) = [] := by decide

theorem test_DivFromfracMod_hypotheses : (fxuState 0 4 3).frValue 3 ≠ 0 := by decide

theorem test_DivFromfracMod_zero_hypotheses : (fxuState 0 4 0).frValue 3 = 0 := by decide

theorem test_FloorCeil_zero_hypotheses : ((fxuState 0 4 0).frValue 3).toInt.natAbs = 0 := by decide

theorem test_FloorCeil_hypotheses : ((fxuState 0 4 0x8000000000000000).frValue 3).toInt.natAbs ≠ 0 := by decide

theorem test_FloorCeilAreMultiples_hypotheses :
    (0x8000000000000000 : W64) ≠ 0 ∧ Fx.floor 0x5000000 0x8000000000000000 = .exact 0
      ∧ Fx.ceil 0x8000000000000001 0x4000000000000000 = .exact 0x8000000000000000
      ∧ Fx.ceil 0x5000000 0x8000000000000000 = .overflow 0x8000000000000000 := by decide

/-- The largest raw word of the rule for D = 2^24, and a negative one for D = 33554433. -/
theorem test_RoundTrip_hypotheses :
    ((0x7FFFFFFF : W64).toInt.natAbs < 2 ^ 31 ∧ Fx.fromInt 16777216 = .exact 0x1000000000000
        ∧ Fx.mul 0x7FFFFFFF 0x1000000000000 = .exact 0x7FFFFFFF000000
        ∧ Fx.toInt 0x7FFFFFFF000000 = .exact 0x7FFFFFFF)
      ∧ ((-3 : W64).toInt.natAbs < 2 ^ 31 ∧ Fx.fromInt 33554433 = .exact 0x2000001000000
        ∧ Fx.mul (-3) 0x2000001000000 = .exact (-100663299) ∧ Fx.toInt (-100663299) = .exact (-7)) := by decide

/-- One witness for each law of FxuLaws that has hypotheses. -/
theorem test_FxuLaws_hypotheses :
    (Fx.add 1 2 = .exact 3 ∧ Fx.add 3 4 = .exact 7 ∧ Fx.add 2 4 = .exact 6 ∧ Fx.add 1 6 = .exact 7)
      ∧ (Fx.sub 1 2 = .exact (-1) ∧ Fx.neg 2 = .exact (-2) ∧ Fx.add 1 (-2) = .exact (-1))
      ∧ ((5 : W64) ≠ mostNegative ∧ Fx.mul 5 0x1000000 = .exact 5 ∧ Fx.div 5 0x1000000 = .exact 5)
      ∧ Fx.mul 1 (Fx.ofInteger (2 ^ 39 - 1)) = .exact 0x7FFFFFFFFF := by decide

theorem test_FracIsNearest_hypotheses :
    Fx.frac 1 0x2000000 = .exact 1
      ∧ 2 * ((1 : W64).toInt * (0x2000000 : W64).toInt - (1 : W64).toInt * 2 ^ 24).natAbs = (0x2000000 : W64).toInt.natAbs := by
  decide

theorem test_PseudoInstructions_hypotheses :
    (-32768 ≤ (-32768 : Int) ∧ (-32768 : Int) ≤ 32767) ∧ (-32768 ≤ (32767 : Int) ∧ (32767 : Int) ≤ 32767)
      ∧ (3 : Reg) ≠ 2 ∧ (-3 : W64) ≠ 0 := by decide

theorem test_UnwrittenSourcesAreMarked_hypotheses : ∃ t, exec (.mov 1 2) State.reset = .next t := ⟨_, rfl⟩

theorem test_UnitsShareNothing_hypotheses :
    (∃ t, exec (.mov 1 2) State.reset = .next t ∧ (Instr.mov 1 2).unit = .fxu)
      ∧ ∃ t, exec (.bweInit 1 false) State.reset = .next t ∧ (Instr.bweInit 1 false).unit = .bwe :=
  ⟨⟨_, rfl, rfl⟩, _, rfl, rfl⟩

/-- Every sticky bit set, and a command word written. -/
theorem test_StickyBitsStay_hypotheses :
    (statusState 7 0xE (w32 0x004 0x6C000000)).pending = w32 0x004 0x6C000000 :: []
      ∧ w32 0x004 0x6C000000 ≠ .reset ∧ (∃ t, step (statusState 7 0xE (w32 0x004 0x6C000000)) = .next t)
      ∧ (∀ a v, w32 0x004 0x6C000000 = .write a v → a.offset ≠ 0x008)
      ∧ ∀ a v, w32 0x004 0x6C000000 = .write a v → a.offset ≠ 0x010 := by
  refine ⟨rfl, by decide, ⟨_, rfl⟩, ?_, ?_⟩ <;> (intro a v h; cases h; decide)

theorem test_OnlyInitWritesCapabilities_hypotheses :
    (∃ t, exec (.add 1 2 3) State.reset = .next t) ∧ (∀ v st, Instr.add 1 2 3 ≠ .bweInit v st)
      ∧ 0x1000 ≤ 0x1000 ∧ 0x27FF < 0x2800 := ⟨⟨_, rfl⟩, fun _ _ h => (by cases h), by decide, by decide⟩

theorem test_ResetState_hypotheses : (statusState 7 0x3F .reset).pending = [.reset] := by decide

/-- No record byte written. -/
def noMemory : Memory := []

/-- Every FXU register written, one record word written at the offset, and a read of that offset to come. -/
def readState (offset : Nat) : State :=
  { State.reset with
    fr := Vector.replicate 16 ⟨0x123456789ABCDEF0, true, true⟩
    mem := noMemory.store offset (bytesOfWord 0x89ABCDEF), pending := [r32 offset] }

theorem test_HostReads_hypotheses :
    ∀ o ∈ [0x000, 0x008, 0x010, 0x014, 0x100, 0x104, 0x178, 0x17C, 0x1000, 0x2FFC, 0x4000, 0x7FFC],
      (readState o).pending = r32 o :: [] ∧ o % 4 = 0 ∧ o < 0x8000 ∧ (readState o).fr[(15 : Reg)].loWritten = true
        ∧ (readState o).fr[(0 : Reg)].hiWritten = true ∧ (readState o).mem.word o = some 0x89ABCDEF := by decide +kernel

theorem test_HostReads_hypotheses_records :
    ∀ o ∈ [0x1000, 0x2FFC, 0x4000, 0x7FFC], inRecord o = true := by decide

theorem test_ReservedAndReadOnly_hypotheses :
    ∀ o ∈ [0x018, 0x0FC, 0x180, 0xFFC, 0x3000, 0x3FFC, 0x000, 0x004, 0x00C, 0x010, 0x014],
      (readState o).pending = r32 o :: [] ∧ (statusState 0 0 (w32 o 1)).pending = w32 o 1 :: [] ∧ o % 4 = 0 := by
  decide +kernel

theorem test_WriteOneToClear_hypotheses :
    (statusState 7 0x3F (w32 0x008 5)).pending = [w32 0x008 5]
      ∧ (statusState 7 0x3F (w32 0x010 5)).pending = [w32 0x010 5] := by decide

theorem test_HostWritesFrHalf_hypotheses :
    (statusState 0 0 (w32 0x178 5)).pending = [w32 (0x100 + 8 * (15 : Reg).val) 5]
      ∧ (statusState 0 0 (w32 0x104 5)).pending = [w32 (0x104 + 8 * (0 : Reg).val) 5] := by decide

theorem test_HostWritesRecord_hypotheses :
    ∀ o ∈ [0x1000, 0x2FFC, 0x4000, 0x7FFC],
      (statusState 0 0 (w32 o 1)).pending = w32 o 1 :: [] ∧ o % 4 = 0 ∧ inRecord o = true := by decide +kernel

theorem test_RefusedAccesses_hypotheses :
    (statusState 0 0 (.read ⟨.owner, .w64, 0x100⟩)).pending = [.read ⟨.owner, .w64, 0x100⟩]
      ∧ (statusState 0 0 (.write ⟨.owner, .w32, 0x102⟩ 1)).pending = [.write ⟨.owner, .w32, 0x102⟩ 1]
      ∧ (⟨.owner, .w32, 0x102⟩ : Access).offset % 4 ≠ 0
      ∧ (statusState 0 0 (.read ⟨.other, .w32, 0x100⟩)).pending = [.read ⟨.other, .w32, 0x100⟩] := by decide

/-- A state with sticky bits set, CARRIZO loaded as Stoney, and one record word written. -/
def invState : State :=
  { State.reset with
    fxuStatus := 7, bweStatus := 0xE, bweVersion := 0x31
    mem := noMemory.store 0x2000 (bytesOfWord 1), pending := [w32 0x2004 0] }

theorem test_InvStep_hypotheses : Inv invState ∧ ∃ t, step invState = .next t := by
  refine ⟨⟨by decide, by decide, by decide, by decide, by decide, by decide, by decide, ?_, ?_⟩, _, rfl⟩
  · intro h; exact absurd h (by decide)
  · intro h; exact absurd h (by decide)

theorem test_InitLoadsTables_hypotheses : ∃ t, exec (.bweInit 3 true) State.reset = .next t := ⟨_, rfl⟩

/-- The memory after INIT 1 and the writes of P5, but for MODE's reserved slots 6 to 15, which this one writes too. -/
def scenarioAMemory : Memory :=
  Memory.storeSlots [] dceipBase
    ((List.range 256).map (capDceipSlot 1 false) ++ (List.range 256).map (capVbiosSlot 1)
      ++ (List.range 31).map scenarioAMode)

/-- Slot k of that memory, counted from DCEIP. -/
theorem scenarioAMemory_slot (k : Nat) (h : k < 543) :
    scenarioAMemory.slot (0x1000 + 8 * k)
      = ((List.range 256).map (capDceipSlot 1 false) ++ (List.range 256).map (capVbiosSlot 1)
        ++ (List.range 31).map scenarioAMode)[k]? := by
  have hl : ((List.range 256).map (capDceipSlot 1 false) ++ (List.range 256).map (capVbiosSlot 1)
      ++ (List.range 31).map scenarioAMode).length = 543 := by
    simp only [List.length_append, List.length_map, List.length_range]
  have := Memory.slot_storeSlots [] dceipBase ((List.range 256).map (capDceipSlot 1 false)
    ++ (List.range 256).map (capVbiosSlot 1) ++ (List.range 31).map scenarioAMode) k (by rw [hl]; exact h)
  rw [List.getElem?_eq_getElem (by rw [hl]; exact h)]
  exact this

theorem scenarioAMemory_mode (k : Nat) (h : k < 31) : scenarioAMemory.slot (0x2000 + 8 * k) = some (scenarioAMode k) := by
  have e : 0x2000 + 8 * k = 0x1000 + 8 * (512 + k) := by omega
  have hl : ((List.range 256).map (capDceipSlot 1 false) ++ (List.range 256).map (capVbiosSlot 1)).length = 512 := by
    simp only [List.length_append, List.length_map, List.length_range]
  rw [e, scenarioAMemory_slot _ (by omega), List.getElem?_append_right (by rw [hl]; omega), hl, Nat.add_sub_cancel_left,
    List.getElem?_map, List.getElem?_range h]
  rfl

theorem test_CapabilityTables_hypotheses :
    8 ≤ 8 ∧ (6 = 0 ∨ 6 = 3 ∨ 6 = 6) ∧ ScenarioAReady ({ State.reset with mem := scenarioAMemory } : State).mem := by
  refine ⟨by decide, by decide, fun k h => ?_, fun k h => ?_, fun k h => scenarioAMemory_mode k (by omega),
    fun k _ h => scenarioAMemory_mode k h⟩
  · show scenarioAMemory.slot _ = _
    rw [scenarioAMemory_slot _ (by omega), List.append_assoc,
      List.getElem?_append_left (by rw [List.length_map, List.length_range]; exact h), List.getElem?_map,
      List.getElem?_range h]
    rfl
  · have e : 0x1800 + 8 * k = 0x1000 + 8 * (256 + k) := by omega
    have hl : ((List.range 256).map (capDceipSlot 1 false)).length = 256 := by rw [List.length_map, List.length_range]
    show scenarioAMemory.slot _ = _
    rw [e, scenarioAMemory_slot _ (by omega), List.append_assoc, List.getElem?_append_right (by rw [hl]; omega), hl,
      Nat.add_sub_cancel_left,
      List.getElem?_append_left (by rw [List.length_map, List.length_range]; exact h), List.getElem?_map,
      List.getElem?_range h]
    rfl

/-! ## Records that are ready -/

/-- Slots 0 to 30 of scenario A's MODE with this number of horizontal taps and this width. -/
def modeSlots (taps : W64) (width : W64 := fx 1920) : List W64 :=
  [1, 0, 0, 0, 0, 0] ++ List.replicate 10 0
    ++ [fx 2200, fx 148, width, fx 1080, fx 1, fx 1, taps, 4, 4, 0, 0, 0, 0, 0, 0]

/-- Slots 0 to 135 of that MODE with a blended 420 underlay on its display, and write-back. -/
def mixedSlots : List W64 :=
  [1, 0, 0, 1, 2, 0] ++ (modeSlots 4).drop 6 ++ List.replicate 81 0
    ++ [fx 1920, fx 1080, fx 1, fx 1, 1, 16, 270, 1, 1] ++ List.replicate 7 0
    ++ [fx 1920, fx 1080, fx 1, fx 1, 4, 4, 8, 1]

/-- The capability slots after the first, every one 600.0. -/
def capabilitySlots : List W64 := List.replicate 511 (fx 600)

theorem capabilitySlots_length : capabilitySlots.length = 511 := List.length_replicate

/-- DCEIP with this number of graphics pipes, VBIOS, and this MODE. -/
def recordsMemory (pipes : W64) (mode : List W64) : Memory := Memory.storeSlots [] 0x1000 (pipes :: capabilitySlots ++ mode)

/-- These records with the MODE of scenario A. -/
def readyMemory (pipes taps : W64) (width : W64 := fx 1920) : Memory := recordsMemory pipes (modeSlots taps width)

/-- MODE alone. -/
def modeMemory (taps : W64) : Memory := Memory.storeSlots [] 0x2000 (modeSlots taps)

/-- A state with these records. -/
def recordState (m : Memory) : State := { State.reset with mem := m }

theorem recordState_mem (m : Memory) : (recordState m).mem = m := rfl

theorem recordState_draws (m : Memory) : (recordState m).draws = 0 := rfl

/-- Slot k of the records, counted from DCEIP. -/
theorem recordsMemory_slot (pipes : W64) (mode : List W64) (k : Nat) :
    (recordsMemory pipes mode).slot (0x1000 + 8 * k) = (pipes :: capabilitySlots ++ mode)[k]? := by
  by_cases h : k < (pipes :: capabilitySlots ++ mode).length
  · rw [List.getElem?_eq_getElem h]
    exact Memory.slot_storeSlots _ _ _ _ h
  · rw [List.getElem?_eq_none (by omega)]
    exact Memory.slot_storeSlots_outside _ _ _ _ (by omega)

/-- The capability slots after the first. -/
theorem recordsMemory_capability (pipes : W64) (mode : List W64) (k : Nat) (h : k < 511) :
    (recordsMemory pipes mode).slot (0x1000 + 8 * (k + 1)) = some (fx 600) := by
  rw [recordsMemory_slot, List.cons_append, List.getElem?_cons_succ,
    List.getElem?_append_left (by rw [capabilitySlots_length]; exact h)]
  exact List.getElem?_replicate_of_lt h

/-- The slots of MODE. -/
theorem recordsMemory_mode (pipes : W64) (mode : List W64) (k : Nat) :
    (recordsMemory pipes mode).slot (0x2000 + 8 * k) = mode[k]? := by
  have e : 0x2000 + 8 * k = 0x1000 + 8 * (511 + k + 1) := by omega
  rw [e, recordsMemory_slot, List.cons_append, List.getElem?_cons_succ,
    List.getElem?_append_right (by rw [capabilitySlots_length]; omega), capabilitySlots_length, Nat.add_sub_cancel_left]

theorem recordsMemory_modeSlot (pipes : W64) (mode : List W64) :
    modeSlot (recordsMemory pipes mode) = fun k => mode.getD k 0 :=
  funext fun k => by rw [modeSlot, recordsMemory_mode, List.getD_eq_getElem?_getD]

/-- MODE is written where each slot that the model asks for is. -/
theorem modeWritten_of_slots (m : Memory) (h0 : (m.slot 0x2000).isSome) (hn : modeCount m ≤ 6)
    (h : ∀ k ∈ modeSlotsNeeded (modeSlot m) (modeCount m), (m.slot (0x2000 + 8 * k)).isSome) : modeWritten m :=
  ⟨h0, hn, fun k hk => h k ((mem_modeSlotsNeeded _ _ _).2 hk)⟩

/-- The records are ready if MODE's own slots are. -/
theorem recordsMemory_calcReady (pipes : W64) (mode : List W64) (legal : modeLegal (fun k => mode.getD k 0) = true)
    (h : ∀ k ∈ 0 :: modeSlotsNeeded (fun k => mode.getD k 0) (mode.getD 0 0).toNat, k < mode.length) :
    CalcReady (recordsMemory pipes mode) where
  mode := by
    have slot : ∀ k, k < mode.length → ((recordsMemory pipes mode).slot (0x2000 + 8 * k)).isSome := fun k hk => by
      rw [recordsMemory_mode, List.getElem?_eq_getElem hk]; rfl
    refine modeWritten_of_slots _ (slot 0 (h 0 (List.mem_cons_self ..))) ?_ fun k hk => slot k (h k (List.mem_cons_of_mem _ ?_))
    · rw [modeCount, recordsMemory_modeSlot]
      exact ((modeLegal_iff _).1 legal).count
    · rwa [modeCount, recordsMemory_modeSlot] at hk
  legal := by rw [recordsMemory_modeSlot]; exact (modeLegal_iff _).1 legal
  capabilities := by
    refine ⟨fun k _ => ?_, fun k _ => ?_⟩
    · cases k with
      | zero => rw [recordsMemory_slot]; rfl
      | succ k => rw [recordsMemory_capability _ _ _ (by omega)]; rfl
    · rw [show 0x1800 + 8 * k = 0x1000 + 8 * (255 + k + 1) by omega, recordsMemory_capability _ _ _ (by omega)]; rfl

theorem readyMemory_modeSlot (pipes taps width : W64) (k : Nat) :
    modeSlot (readyMemory pipes taps width) k = (modeSlots taps width).getD k 0 :=
  congrFun (recordsMemory_modeSlot pipes (modeSlots taps width)) k

theorem readyMemory_count (pipes taps width : W64) : modeCount (readyMemory pipes taps width) = 1 := by
  rw [modeCount, readyMemory_modeSlot]; rfl

theorem test_CalcReady (pipes : W64) : CalcReady (readyMemory pipes 4) :=
  recordsMemory_calcReady _ _ (by decide +kernel) (by decide +kernel)

theorem test_mode_written : modeWritten (modeMemory 4) :=
  modeWritten_of_slots _ (by decide +kernel) (by decide +kernel) (by decide +kernel)

/-- Scenario A, and a MODE in which both shared surfaces are used. -/
theorem test_CalcCompletes_hypotheses :
    CalcReady (recordState (readyMemory 3 4)).mem ∧ CalcReady (recordState (recordsMemory 3 mixedSlots)).mem
      ∧ (let mode := (envOf (recordState (recordsMemory 3 mixedSlots)).mem).mode
        mode.n = 1 ∧ mode.underlayMode 0 ≠ .none ∧ mode.writebackEnable = true) := by
  refine ⟨test_CalcReady 3, recordsMemory_calcReady _ _ (by decide +kernel) (by decide +kernel), ?_⟩
  have e : (envOf (recordState (recordsMemory 3 mixedSlots)).mem).mode = modeOfSlots fun k => mixedSlots.getD k 0 := by
    rw [← recordsMemory_modeSlot 3 mixedSlots]; rfl
  rw [e]
  decide +kernel

/-- Two states that differ in what RESULTS holds. -/
theorem test_CalcIdempotent_hypotheses :
    CalcReady (recordState (readyMemory 3 4)).mem
      ∧ (∀ a, 0x1000 ≤ a → a < 0x2800 → (recordState ((readyMemory 3 4).storeSlots 0x4000 [7])).mem.read a
        = (recordState (readyMemory 3 4)).mem.read a)
      ∧ ((recordState ((readyMemory 3 4).storeSlots 0x4000 [7])).draws = (recordState (readyMemory 3 4)).draws
        ∨ (calcCore (envOf (recordState (readyMemory 3 4)).mem) (CalcState.start 0)).2.dz = false) :=
  ⟨test_CalcReady 3, fun a _ h => by
    rw [recordState_mem, recordState_mem]
    exact Memory.read_storeSlots_outside _ _ _ _ (by rw [List.length_singleton]; omega),
    .inl (by rw [recordState_draws, recordState_draws])⟩

/-- The widths 1920 and 2560. -/
theorem test_WidthNeverLowersDemand_hypotheses :
    let s := recordState (readyMemory 3 4)
    let s' := recordState (readyMemory 3 4 (fx 2560))
    CalcReady s.mem ∧ CalcReady s'.mem ∧ modeCount s.mem = 1 ∧ modeSlot s.mem 4 = 0
      ∧ modeSlot s.mem 18 = fx 1920 ∧ modeSlot s'.mem 18 = fx 2560 ∧ (fx 1920).toInt ≤ (fx 2560).toInt :=
  ⟨test_CalcReady 3, recordsMemory_calcReady _ _ (by decide +kernel) (by decide +kernel), readyMemory_count _ _ _,
    readyMemory_modeSlot _ _ _ 4, readyMemory_modeSlot _ _ _ 18, readyMemory_modeSlot _ _ _ 18, by decide⟩

theorem test_BwcalcsVerdict_hypotheses :
    CalcReady (recordState (readyMemory 3 4)).mem ∧ modeCount (recordState (readyMemory 3 4)).mem ≠ 0 :=
  ⟨test_CalcReady 3, by rw [recordState_mem, readyMemory_count]; decide⟩

theorem test_MarksAndFinalResults_hypotheses :
    CalcReady (recordState (readyMemory 3 4)).mem ∧ modeCount (recordState (readyMemory 3 4)).mem ≠ 0 :=
  ⟨test_CalcReady 3, by rw [recordState_mem, readyMemory_count]; decide⟩

/-- E6: 17 taps, and R200: seven displays. -/
theorem test_IllegalModeOnlySetsIll_hypotheses :
    (modeWritten (recordState (modeMemory 17)).mem ∧ ¬LegalMode (modeSlot (recordState (modeMemory 17)).mem))
      ∧ ((recordState (noMemory.storeSlots 0x2000 [7])).mem.slot 0x2000).isSome
      ∧ 6 < modeCount (recordState (noMemory.storeSlots 0x2000 [7])).mem := by
  refine ⟨⟨modeWritten_of_slots _ (by decide +kernel) (by decide +kernel) (by decide +kernel), ?_⟩, by decide +kernel,
    by decide +kernel⟩
  rw [← modeLegal_iff]
  decide +kernel

theorem test_UnwrittenFieldFaults_hypotheses :
    (State.reset.mem.slot 0x2000).isSome = false
      ∧ ((recordState (noMemory.storeSlots 0x2000 [6])).mem.slot 0x2000).isSome = true
      ∧ modeCount (recordState (noMemory.storeSlots 0x2000 [6])).mem ≤ 6
      ∧ ∃ k, NeededModeSlot (modeSlot (recordState (noMemory.storeSlots 0x2000 [6])).mem)
          (modeCount (recordState (noMemory.storeSlots 0x2000 [6])).mem) k
        ∧ ((recordState (noMemory.storeSlots 0x2000 [6])).mem.slot (0x2000 + 8 * k)).isSome = false :=
  ⟨by decide +kernel, by decide +kernel, by decide +kernel, 1, .inl (by decide), by decide +kernel⟩

theorem test_UnwrittenFieldFaults_hypotheses_capabilities :
    modeWritten (recordState (modeMemory 4)).mem ∧ LegalMode (modeSlot (recordState (modeMemory 4)).mem)
      ∧ ¬capabilitiesWritten (recordState (modeMemory 4)).mem ∧ 1 ≤ modeCount (recordState (modeMemory 4)).mem :=
  ⟨test_mode_written, (modeLegal_iff _).1 (by decide +kernel), fun h => absurd (h.1 0 (by decide)) (by decide +kernel),
    by decide +kernel⟩

theorem test_ZeroDisplays_hypotheses :
    modeWritten (recordState (noMemory.storeSlots 0x2000 [0, 0, 0, 0, 0, 0])).mem
      ∧ LegalMode (modeSlot (recordState (noMemory.storeSlots 0x2000 [0, 0, 0, 0, 0, 0])).mem)
      ∧ modeCount (recordState (noMemory.storeSlots 0x2000 [0, 0, 0, 0, 0, 0])).mem = 0 :=
  ⟨modeWritten_of_slots _ (by decide +kernel) (by decide +kernel) (by decide +kernel),
    (modeLegal_iff _).1 (by decide +kernel), by decide +kernel⟩

/-! ## Statements over every CALC_CORE -/

theorem test_SurfaceClassification_hypotheses :
    ((0 : Slot).val = 2 * (0 : Fin 2).val ∧ (1 : Slot).val = 2 * (0 : Fin 2).val + 1)
      ∧ (2 : Slot).val = 2 * (1 : Fin 2).val ∧ (3 : Slot).val = 2 * (1 : Fin 2).val + 1 := by decide

/-- The RESULTS of scenario A under the vectors' parameters. -/
def resultsA : Results := resultsOf (envWith [displayA]) 0

theorem test_DisabledSlotsAreZero_hypotheses : resultsA.surfaces[(0 : Slot)].cls.enable = false ∧ 119 < 120 := by
  decide +kernel

/-- A MODE with a rotated 420 underlay on its one display, and write-back. -/
def mixedMode : Mode :=
  { modeWith [displayA] with
    d0UnderlayMode := .blended, writebackEnable := true
    underlay := { srcWidth := fx 1920, srcHeight := fx 1080, hsr := fx 1, vsr := fx 2, hTaps := 4, vTaps := 4,
                  rotationAngle := 90, tilingMode := .tiled, scatterGatherEnable := true } }

/-- Its RESULTS. -/
def resultsMixed : Results := resultsOf { envWith [] with mode := mixedMode } 0

theorem test_SlotGeometry_hypotheses :
    resultsA.surfaces[graphicsSlot 0].cls.enable = true
      ∧ ∀ i ∈ [(0 : Slot), 1, 4, 10, 11], resultsMixed.surfaces[i].cls.enable = true := by decide +kernel

theorem test_ChunkRounding_hypotheses :
    resultsA.surfaces[(4 : Slot)].cls.enable = true
      ∧ (0 < (fx 1800).toInt ∧ (fx 1800).toInt ≤ (fx 1930).toInt
        ∧ Fx.ceil (fx 1800) 0x80000000 = .exact (fx 1920) ∧ Fx.ceil (fx 1930) 0x80000000 = .exact (fx 2048)) := by
  decide +kernel

/-- A slot that prefetches; one that does not, with vsr at 4.0; one above; a top-bottom one. -/
theorem test_LinesInPerLineOut_hypotheses :
    (resultsA.surfaces[(4 : Slot)].cls.enable = true ∧ resultsA.surfaces[(4 : Slot)].bw.lbPrefetchEligible = true)
      ∧ (∀ v ∈ [4, 5], (resultsOf (envWith [{ displayA with vsr := fx v }]) 0).surfaces[(4 : Slot)].bw.lbPrefetchEligible
          = false ∧ (resultsOf (envWith [{ displayA with vsr := fx v }]) 0).surfaces[(4 : Slot)].geo.vsr = fx v)
      ∧ (resultsOf (envWith [{ displayA with stereoMode := .topBottom }]) 0).surfaces[(4 : Slot)].geo.stereoMode
        = .topBottom := by decide +kernel

theorem test_BandwidthTotals_hypotheses :
    resultsA.surfaces[(4 : Slot)].cls.enable = true ∧ resultsMixed.surfaces[(10 : Slot)].cls.enable = true := by
  decide +kernel

/-- Scenario A with a global request buffer of 1000.0, below the 2000.0 that its one buffer asks for. -/
def smallBuffer : CalcEnv := { envWith [displayA] with dceip := { dceipV with globalRequestBufferSize := fx 1000 } }

/-- One display whose buffer exceeds the global request buffer throttles: its formula answers 77.0. -/
theorem test_RequestBudgets_hypotheses_global :
    smallBuffer.mode.n = 1 ∧ (resultsOf smallBuffer 0).surfaces[(4 : Slot)].cls.enable = true
      ∧ smallBuffer.dceip.globalRequestBufferSize.toInt < (wrappedSum [resultsA.surfaces[(4 : Slot)].buf.dataBufferSize]).toInt
      ∧ (resultsOf smallBuffer 0).surfaces[(4 : Slot)].buf.dataBufferSize = fx 77 := by decide +kernel

/-- Both kinds of slot for the PTE limits; two displays throttle, and one with buffers that fit does not. -/
theorem test_RequestBudgets_hypotheses :
    (resultsMixed.surfaces[(0 : Slot)].cls.enable = true
        ∧ resultsMixed.surfaces[(0 : Slot)].geo.scatterGatherEnable = true)
      ∧ (resultsMixed.surfaces[(4 : Slot)].cls.enable = true
        ∧ resultsMixed.surfaces[(4 : Slot)].geo.scatterGatherEnable = false)
      ∧ 1 < (envWith [displayA, displayA]).mode.n
      ∧ (envWith [displayA]).mode.n = 1
      ∧ (wrappedSum (resultsA.enabledSurfaces.map fun sf => sf.buf.dataBufferSize)).toInt
        ≤ (envWith [displayA]).dceip.globalRequestBufferSize.toInt := by decide +kernel

/-- Scenario A with stage formulas that need this dispclk. -/
def resultsNeeding (dispclk : Int) : Results :=
  resultsOf
    { envWith [displayA] with
      params :=
        { (envWith []).params with stage := { vectorStages with dispclkScalerThroughput := fun _ _ => answers dispclk } } } 0

/-- A requirement at the high maximum of 600 in a mode that passes, and one above it. -/
theorem test_DispclkTier_hypotheses :
    ((resultsNeeding 600).dispclkRequiredWithoutRamping.toInt ≤ vbiosV.maxDispclk.high.toInt
        ∧ (resultsNeeding 600).voltage ≠ .notok)
      ∧ vbiosV.maxDispclk.high.toInt < (resultsNeeding 601).dispclkRequiredWithoutRamping.toInt
      ∧ (resultsOf
          { envWith [] with
            params :=
              { (envWith []).params with
                stage := { vectorStages with dispclkScalerThroughput := fun _ _ => answers 601 } } } 0).voltage ≠ .notok := by
  decide +kernel

/-- Scenario A passes, scenario B fails, and n = 0 is not applicable. -/
theorem test_InfeasibleForcesSentinel_hypotheses :
    ((envWith [displayA]).mode.n ≠ 0 ∧ resultsA.voltage ≠ .notok)
      ∧ ((envWith (List.replicate 6 displayA)).mode.n ≠ 0
        ∧ (resultsOf (envWith (List.replicate 6 displayA)) 0).modeCheck ≠ .ok
        ∧ (resultsOf (envWith (List.replicate 6 displayA)) 0).voltage = .notok)
      ∧ (envWith []).mode.n = 0 ∧ (resultsOf (envWith []) 0).voltage = .notApplicable := by decide +kernel

theorem test_TooManyDisplaysFail_hypotheses :
    (envWith (List.replicate 6 displayA)).dceip.numberOfGraphicsPipes.toInt
        < ((List.range (min (envWith (List.replicate 6 displayA)).mode.n 6)).filter fun k =>
          (envWith (List.replicate 6 displayA)).mode.underlayMode k ≠ .underlayOnly).length
      ∧ 0 < (envWith (List.replicate 6 displayA)).mode.n := by decide +kernel

theorem test_Watermarks_hypotheses :
    (resultsA.surfaces[(4 : Slot)].cls.enable = true ∧ (envWith [displayA]).mode.n ≤ 1)
      ∧ 1 < (envWith [displayA, displayA]).mode.n
      ∧ (resultsOf (envWith [displayA, displayA]) 0).surfaces[(5 : Slot)].cls.enable = true := by decide +kernel

/-- No number of graphics surfaces is within a limit of -1 pipes (R213). -/
theorem test_FailedModeIsUnsupported_hypotheses :
    CalcReady (recordState (readyMemory (-1) 4)).mem ∧ modeCount (recordState (readyMemory (-1) 4)).mem ≠ 0
      ∧ (resultsOf (envOf (recordState (readyMemory (-1) 4)).mem) (recordState (readyMemory (-1) 4)).draws).modeCheck = .notok
      ∧ 0 ≤ (loadVbios (recordState (readyMemory (-1) 4)).mem).maxDispclk.high.toInt
      ∧ (loadVbios (recordState (readyMemory (-1) 4)).mem).maxDispclk.high.toInt < 9999 * 2 ^ 24 := by
  have pipes : (loadDceip (readyMemory (-1) 4)).numberOfGraphicsPipes = -1 := by
    have load : ∀ m : Memory, (loadDceip m).numberOfGraphicsPipes = recordSlot m dceipBase 0 := fun _ => rfl
    have slot : (readyMemory (-1) 4).slot (slotOffset dceipBase 0) = some (-1) := recordsMemory_slot _ _ 0
    rw [load, recordSlot, slot]; rfl
  have high : (loadVbios (readyMemory (-1) 4)).maxDispclk.high = fx 600 := by
    have load : ∀ m : Memory, (loadVbios m).maxDispclk.high = recordSlot m vbiosBase 8 := fun _ => rfl
    have slot : (readyMemory (-1) 4).slot (slotOffset vbiosBase 8) = some (fx 600) :=
      recordsMemory_capability _ _ 263 (by omega)
    rw [load, recordSlot, slot]; rfl
  have none : ∀ n : Nat, withinPipes n (-1) = false := fun n => by
    rw [withinPipes, decide_eq_false_iff_not]
    have : (-1 : W64).toInt = -1 := by decide
    omega
  have fails : ∀ (d : Dceip) (r : Results), d.numberOfGraphicsPipes = -1 → (checkPipes d r).pipeCheck = .notok :=
    fun d r h => by rw [checkPipes, h, none]; rfl
  rw [recordState_mem, readyMemory_count, high]
  exact ⟨test_CalcReady _, by decide, resultsOf_modeCheck_of_pipes _ _ (fails _ _ pipes), by decide, by decide⟩

/-- T1: mid yclk and low sclk are the least that fit; T5 and T6: none fits. -/
theorem test_TierSelection_hypotheses :
    let r := (tierInputs true 0).results
    (YclkFits vbiosV r (fx 15) .mid ∧ ∀ y, YclkFits vbiosV r (fx 15) y → Tier.mid.rank ≤ y.rank)
      ∧ (∀ y, ¬YclkFits vbiosV r (fx 31) y)
      ∧ (SclkFits vbiosV r (fx 4) .mid .low ∧ ∀ s, SclkFits vbiosV r (fx 4) .mid s → Tier.low.rank ≤ s.rank)
      ∧ ∀ s, ¬SclkFits vbiosV r (fx 16) .mid s := by
  refine ⟨⟨⟨by decide, by decide, fun X _ => ⟨.high, by decide, by cases X <;> decide, by cases X <;> decide⟩⟩, ?_⟩, ?_,
    ⟨⟨by decide, by decide, fun X _ => ⟨by cases X <;> decide, by cases X <;> decide⟩⟩, ?_⟩, ?_⟩
  · intro y h; cases y
    · exact absurd h.2.1 (by decide)
    · decide
    · decide
  · intro y h; exact absurd h.2.1 (by cases y <;> decide)
  · intro s _; exact Nat.zero_le _
  · intro s h; exact absurd h.2.1 (by cases s <;> decide)

end Sys2Proof.Tests
end

section
/-!
The offsets of the window that hold nothing a host can read or write (20_memory.md R74): what a read of such an offset
gives, what a write to it leaves, and what write-1-to-clear leaves of a status register.
-/

namespace Sys2Proof.Machine

/-! ## One access of the window, by what the offset selects -/

/-- R74, reads: the command registers and the reserved offsets hold no value. -/
theorem State.readWindow_eq_zero (s : State) {offset : Nat}
    (h : targetOf offset = .reserved ∨ targetOf offset = .fxuCmd ∨ targetOf offset = .bweCtrl) :
    s.readWindow offset = 0 := by
  rcases h with h | h | h <;> simp only [State.readWindow, h]

/-- R74, writes: the reserved offsets and the read-only registers take no value. -/
theorem State.writeWindow_eq_self (s : State) {offset : Nat} (v : W32)
    (h : targetOf offset = .reserved ∨ targetOf offset = .blkId ∨ targetOf offset = .bweVersion) :
    s.writeWindow offset v = .next s := by
  rcases h with h | h | h <;> simp only [State.writeWindow, h]

/-- Only bits of the mask can change under write-1-to-clear (10_state.md R24, R26). -/
theorem writeOneToClear_and_not_mask (mask old value : W32) :
    writeOneToClear mask old value &&& ~~~mask = old &&& ~~~mask := by
  ext k hk
  simp only [writeOneToClear, BitVec.getElem_and, BitVec.getElem_not]
  cases mask[k] <;> simp

/-- A write of BWE_STATUS clears sticky bits and does nothing else (R77). -/
theorem State.writeWindow_bweStatus (s : State) (v : W32) :
    s.writeWindow 0x010 v = .next { s with bweStatus := writeOneToClear bweStickyBits s.bweStatus v } := rfl

/-! ## One step -/

theorem step_read_eq_zero {s : State} {rest : List HostEvent} {offset : Nat} (hp : s.pending = r32 offset :: rest)
    (h4 : offset % 4 = 0) (hw : offset < 0x8000)
    (ht : targetOf offset = .reserved ∨ targetOf offset = .fxuCmd ∨ targetOf offset = .bweCtrl) :
    step s = .next { s with pending := rest, response := some 0 } := by
  rw [step_read s rest offset hp h4 hw, State.readWindow_eq_zero s ht]

theorem step_write_ignored {s : State} {rest : List HostEvent} {offset : Nat} {v : W32}
    (hp : s.pending = w32 offset v :: rest) (h4 : offset % 4 = 0) (hw : offset < 0x8000)
    (ht : targetOf offset = .reserved ∨ targetOf offset = .blkId ∨ targetOf offset = .bweVersion) :
    step s = .next ({ s with pending := rest } : State).beginWrite := by
  rw [step_write s rest offset v hp h4 hw, State.writeWindow_eq_self _ v ht, Served.outcome]

theorem step_write_bweStatus {s : State} {rest : List HostEvent} {v : W32} (hp : s.pending = w32 0x010 v :: rest) :
    step s = .next { ({ s with pending := rest } : State).beginWrite with
      bweStatus := writeOneToClear bweStickyBits s.bweStatus v } := by
  rw [step_write s rest 0x010 v hp (by decide) (by decide), State.writeWindow_bweStatus, Served.outcome,
    State.beginWrite_bweStatus]

/-! ## R74 -/

/-- Settles O28, by the target that the map of R73 gives each offset. -/
theorem reservedAndReadOnly : Obligations.ReservedAndReadOnly := by
  intro s rest offset v h4 reserved
  refine ⟨fun hp hr => ?read, fun hp hr => ?write, fun hp h => ?status⟩
  case read =>
    have hw : offset < 0x8000 := by omega
    refine step_read_eq_zero hp h4 hw ?_
    rcases hr with h | rfl | rfl
    · exact .inl (targetOf_reserved offset h)
    · exact .inr (.inl rfl)
    · exact .inr (.inr rfl)
  case write =>
    have hw : offset < 0x8000 := by omega
    refine ⟨s.draws + 1, step_write_ignored hp h4 hw ?_⟩
    rcases hr with h | rfl | rfl
    · exact .inl (targetOf_reserved offset h)
    · exact .inr (.inl rfl)
    · exact .inr (.inr rfl)
  case status =>
    subst h
    exact ⟨_, step_write_bweStatus hp, writeOneToClear_and_not_mask bweStickyBits s.bweStatus v⟩

end Sys2Proof.Machine
end

section
/-!
The opcode maps as the decoder reads them (30_encoding.md R94, R100, R105): what the mask of a row keeps of a word, in the
fields of R91, that no word is of two rows, and what a write of a word of no row does (R101, R104).
-/

namespace Sys2Proof

open Sys2Proof.Machine

/-! ## Words compared field by field -/

theorem field_and (w m : W32) (lo n : Nat) : field (w &&& m) lo n = field w lo n &&& field m lo n := by
  simp only [field, BitVec.extractLsb'_and]

@[simp] theorem field_zero (lo n : Nat) : field (0#32) lo n = 0#n := BitVec.extractLsb'_zero

/-- A mask keeps a field in which all its bits are set. -/
theorem field_and_of_ones {m : W32} {lo n : Nat} (h : field m lo n = BitVec.allOnes n) (w : W32) :
    field (w &&& m) lo n = field w lo n := by rw [field_and, h, BitVec.and_allOnes]

/-- A mask clears a field in which no bit of it is set. -/
theorem field_and_of_zero {m : W32} {lo n : Nat} (h : field m lo n = 0#n) (w : W32) : field (w &&& m) lo n = 0#n := by
  rw [field_and, h, BitVec.and_zero]

theorem field_eq_iff (x y : W32) (lo n : Nat) :
    field x lo n = field y lo n ↔ ∀ k < n, x.getLsbD (lo + k) = y.getLsbD (lo + k) := by
  simp only [field, BitVec.eq_of_getLsbD_eq_iff, BitVec.getLsbD_extractLsb']
  exact forall₂_congr fun k hk => by simp [hk]

/-- A field is compared in two parts, cut at the bit `mid`. -/
theorem field_eq_iff_cut (x y : W32) {lo n k m : Nat} (mid : Nat) (hmid : mid = lo + k) (hn : n = k + m) :
    field x lo n = field y lo n ↔ field x mid m = field y mid m ∧ field x lo k = field y lo k := by
  subst hmid hn
  simp only [field_eq_iff]
  constructor
  · intro h
    exact ⟨fun j hj => by rw [Nat.add_assoc]; exact h (k + j) (by omega), fun j hj => h j (by omega)⟩
  · rintro ⟨high, low⟩ j hj
    rcases Nat.lt_or_ge j k with hk | hk
    · exact low j hk
    · obtain ⟨d, rfl⟩ := Nat.exists_eq_add_of_le hk
      rw [← Nat.add_assoc]; exact high d (by omega)

/-- Two words are compared in two parts, cut at the bit `mid`. -/
theorem eq_iff_cut (x y : W32) {m : Nat} (mid : Nat) (h : 32 = mid + m) :
    x = y ↔ field x mid m = field y mid m ∧ field x 0 mid = field y 0 mid := by
  have whole (w : W32) : field w 0 32 = w := BitVec.extractLsb'_eq_self
  rw [← field_eq_iff_cut x y mid (Nat.zero_add mid).symm h, whole, whole]

/-! ## The rows of the FXU by opcode and format (R91, R94) -/

/-- The bits that the rows of a format test: the opcode and the zero fields of R91. -/
def Format.rowMask : Format → W32
  | .r3 => 0xFC003FFF
  | .r2 => 0xFC03FFFF
  | .imm => 0xFC3F0000
  | .none => 0xFFFFFFFF

/-- The row of an opcode whose command has this format. -/
def Format.row (f : Format) (op : BitVec 6) : OpcodeRow := ⟨op ++ 0#26, f.rowMask⟩

theorem field_opcode (op : BitVec 6) : field (op ++ 0#26) 26 6 = op :=
  BitVec.eq_of_toNat_eq (by rw [field_toNat, append_toNat, BitVec.toNat_ofNat]; omega)

theorem field_below_opcode (op : BitVec 6) : field (op ++ 0#26) 0 26 = 0#26 :=
  BitVec.eq_of_toNat_eq (by rw [field_toNat, append_toNat, BitVec.toNat_ofNat]; omega)

/-- The zero fields of a format are the bits below the opcode that its mask tests. -/
theorem Format.masked_low_iff (f : Format) (w : W32) :
    field (w &&& f.rowMask) 0 26 = 0#26 ↔ f.zeroFieldsOk w = true := by
  rw [← field_zero 0 26]
  cases f <;> simp only [Format.rowMask, Format.zeroFieldsOk, beq_iff_eq]
  case r3 =>
    rw [field_eq_iff_cut _ _ (k := 14) (m := 12) 14 rfl rfl, field_and_of_zero (by decide), field_and_of_ones (by decide)]
    simp
  case r2 =>
    rw [field_eq_iff_cut _ _ (k := 18) (m := 8) 18 rfl rfl, field_and_of_zero (by decide), field_and_of_ones (by decide)]
    simp
  case imm =>
    rw [field_eq_iff_cut _ _ (k := 16) (m := 10) 16 rfl rfl, field_eq_iff_cut _ _ (k := 6) (m := 4) 22 rfl rfl,
      field_and_of_zero (lo := 22) (by decide), field_and_of_ones (lo := 16) (by decide), field_and_of_zero (lo := 0) (by decide)]
    simp
  case none =>
    rw [field_and_of_ones (by decide), field_zero]
    rfl

theorem Format.row_matches_iff (f : Format) (op : BitVec 6) (w : W32) :
    (f.row op).matches w = true ↔ opField w = op ∧ f.zeroFieldsOk w = true := by
  have high : field (w &&& f.rowMask) 26 6 = opField w := field_and_of_ones (by cases f <;> decide) w
  rw [matches_iff, Format.row, eq_iff_cut _ _ (m := 6) 26 rfl, high, field_opcode, field_below_opcode, f.masked_low_iff]

/-- The opcodes that are not reserved, with the formats of their commands, in the order of R94. -/
def fxuFormats : List (BitVec 6 × Format) :=
  [(0x01, .r3), (0x02, .r3), (0x03, .r3), (0x04, .r3), (0x05, .r3), (0x06, .r2), (0x07, .r2), (0x08, .r3), (0x09, .r3),
   (0x0A, .r2), (0x0B, .r3), (0x0C, .r2), (0x0D, .r3), (0x0E, .r3), (0x10, .r3), (0x11, .r3), (0x12, .r3), (0x13, .r3),
   (0x14, .r3), (0x15, .r3), (0x18, .imm), (0x19, .imm), (0x1A, .r2), (0x1B, .none)]

theorem fxuFormats_opcode_injective : ∀ p ∈ fxuFormats, ∀ q ∈ fxuFormats, q.1 = p.1 → q = p := by decide

theorem opcodeRows_fxu : opcodeRows .fxu = fxuFormats.map fun p => p.2.row p.1 := by decide

theorem exists_fxuRow_iff (w : W32) :
    (∃ r ∈ opcodeRows .fxu, r.matches w = true) ↔ ∃ p ∈ fxuFormats, opField w = p.1 ∧ p.2.zeroFieldsOk w = true := by
  simp only [opcodeRows_fxu, List.mem_map, exists_exists_and_eq_and, Format.row_matches_iff]

/-! ## The decoder of the FXU -/

theorem exists_checkedWord_ok_iff (f : Format) (w : W32) (i : Instr) :
    (∃ j, checkedWord f w i = .ok j) ↔ f.zeroFieldsOk w = true := by
  unfold checkedWord
  split <;> simp [*]

theorem decodeFxu_of_mem {w : W32} {p : BitVec 6 × Format} (hp : p ∈ fxuFormats) (hop : opField w = p.1) :
    ∃ i, decodeFxu w = checkedWord p.2 w i := by
  unfold decodeFxu
  rw [hop]
  clear hop
  fin_cases hp <;> exact ⟨_, rfl⟩

theorem decodeFxu_of_not_mem {w : W32} (h : ∀ p ∈ fxuFormats, opField w ≠ p.1) : decodeFxu w = .error .reservedOpcode := by
  unfold decodeFxu
  split
  case h_25 => rfl
  all_goals
    next hop =>
    simp [fxuFormats, ← BitVec.toNat_inj, hop] at h

/-- R94, R104: a word is an FXU command when its opcode is one of the map and the zero fields of that opcode's format are zero. -/
theorem exists_decodeFxu_ok_iff (w : W32) :
    (∃ i, decodeFxu w = .ok i) ↔ ∃ p ∈ fxuFormats, opField w = p.1 ∧ p.2.zeroFieldsOk w = true := by
  by_cases h : ∃ p ∈ fxuFormats, opField w = p.1
  case pos =>
    obtain ⟨p, hp, hop⟩ := h
    obtain ⟨i, hi⟩ := decodeFxu_of_mem hp hop
    have unique := fxuFormats_opcode_injective p hp
    rw [hi, exists_checkedWord_ok_iff]
    constructor
    · exact fun hz => ⟨p, hp, hop, hz⟩
    · rintro ⟨q, hq, hopq, hz⟩
      rwa [← unique q hq (hopq.symm.trans hop)]
  case neg =>
    have none : ∀ p ∈ fxuFormats, opField w ≠ p.1 := fun p hp e => h ⟨p, hp, e⟩
    rw [decodeFxu_of_not_mem none]
    constructor
    · rintro ⟨i, hi⟩; cases hi
    · rintro ⟨p, hp, e, -⟩; exact absurd e (none p hp)

/-! ## The rows and the decoder of the BWE (R100, R101) -/

theorem field_cmd (cmd : BitVec 4) : field (0#28 ++ cmd) 0 4 = cmd :=
  BitVec.eq_of_toNat_eq (by rw [field_toNat, append_toNat, BitVec.toNat_ofNat]; omega)

theorem field_above_cmd (cmd : BitVec 4) : field (0#28 ++ cmd) 4 28 = 0#28 :=
  BitVec.eq_of_toNat_eq (by rw [field_toNat, append_toNat, BitVec.toNat_ofNat]; omega)

/-- A BWE word under the mask of a row that tests CMD: CMD is the row's, and the tested bits above it are zero. -/
theorem bweRow_matches_iff {mask : W32} (hmask : field mask 0 4 = BitVec.allOnes 4) (cmd : BitVec 4) (w : W32) :
    (⟨0#28 ++ cmd, mask⟩ : OpcodeRow).matches w = true ↔ field (w &&& mask) 4 28 = 0#28 ∧ cmdField w = cmd := by
  rw [matches_iff, eq_iff_cut _ _ (m := 28) 4 rfl, field_and_of_ones hmask, field_cmd, field_above_cmd, cmdField]

theorem bits_above_cmd_iff (w : W32) :
    field w 4 28 = 0#28 ↔ bweHighBitsOk w = true ∧ bweInitFieldsZero w = true := by
  rw [← field_zero 4 28, field_eq_iff_cut _ _ (k := 5) (m := 23) 9 rfl rfl]
  simp [bweHighBitsOk, bweInitFieldsZero]

/-- The row of NOP, CALC or BWCALCS tests every bit. -/
theorem bweClosedRow_matches_iff (cmd : BitVec 4) (w : W32) :
    (⟨0#28 ++ cmd, 0xFFFFFFFF⟩ : OpcodeRow).matches w = true ↔
      (bweHighBitsOk w = true ∧ bweInitFieldsZero w = true) ∧ cmdField w = cmd := by
  rw [bweRow_matches_iff (by decide), field_and_of_ones (by decide), bits_above_cmd_iff]

/-- INIT's row leaves VERSION and STONEY_REV open. -/
theorem bweInitRow_matches_iff (cmd : BitVec 4) (w : W32) :
    (⟨0#28 ++ cmd, 0xFFFFFE0F⟩ : OpcodeRow).matches w = true ↔ bweHighBitsOk w = true ∧ cmdField w = cmd := by
  rw [bweRow_matches_iff (by decide), ← field_zero 4 28, field_eq_iff_cut _ _ (k := 5) (m := 23) 9 rfl rfl,
    field_and_of_ones (by decide), field_and_of_zero (by decide)]
  simp [bweHighBitsOk]

theorem opcodeRows_bwe :
    opcodeRows .bwe = [⟨0#28 ++ 0#4, 0xFFFFFFFF⟩, ⟨0#28 ++ 1#4, 0xFFFFFE0F⟩, ⟨0#28 ++ 2#4, 0xFFFFFFFF⟩,
      ⟨0#28 ++ 3#4, 0xFFFFFFFF⟩] := by decide

theorem exists_bweRow_iff (w : W32) :
    (∃ r ∈ opcodeRows .bwe, r.matches w = true) ↔
      bweHighBitsOk w = true ∧ (cmdField w = 1 ∨
        bweInitFieldsZero w = true ∧ (cmdField w = 0 ∨ cmdField w = 2 ∨ cmdField w = 3)) := by
  simp only [opcodeRows_bwe, List.exists_mem_cons_iff, List.not_mem_nil, bweClosedRow_matches_iff, bweInitRow_matches_iff]
  tauto

theorem exists_checkedBwe_ok_iff (w : W32) (i : Instr) :
    (∃ j, checkedBwe w i = .ok j) ↔ bweHighBitsOk w = true ∧ bweInitFieldsZero w = true := by
  unfold checkedBwe
  split <;> simp_all

/-- R100, R101: the BWE words by CMD and the fields that must be zero. -/
theorem exists_decodeBwe_ok_iff (w : W32) :
    (∃ i, decodeBwe w = .ok i) ↔
      bweHighBitsOk w = true ∧ (cmdField w = 1 ∨
        bweInitFieldsZero w = true ∧ (cmdField w = 0 ∨ cmdField w = 2 ∨ cmdField w = 3)) := by
  simp only [← BitVec.toNat_inj]
  unfold decodeBwe
  split
  case h_1 cmd => simp [exists_checkedBwe_ok_iff, cmd]
  case h_2 cmd => cases bweHighBitsOk w <;> simp [cmd]
  case h_3 cmd => simp [exists_checkedBwe_ok_iff, cmd]
  case h_4 cmd => simp [exists_checkedBwe_ok_iff, cmd]
  case h_5 h0 h1 h2 h3 =>
    refine iff_of_false (fun ⟨_, h⟩ => nomatch h) ?_
    rintro ⟨-, h | ⟨-, h | h | h⟩⟩
    exacts [h1 h, h0 h, h2 h, h3 h]

/-! ## One row or none (R105) -/

theorem decode_ok_iff_exists_row (u : CmdUnit) (w : W32) :
    (∃ i, decode u w = .ok i) ↔ ∃ r ∈ opcodeRows u, r.matches w = true := by
  cases u
  case fxu => exact (exists_decodeFxu_ok_iff w).trans (exists_fxuRow_iff w).symm
  case bwe => exact (exists_decodeBwe_ok_iff w).trans (exists_bweRow_iff w).symm

/-- The match words differ in a bit that both rows test (a match word lies under its own mask), so that no word is of both. -/
def OpcodeRow.Disjoint (r r' : OpcodeRow) : Prop := r.matchWord &&& r'.mask ≠ r'.matchWord &&& r.mask

theorem OpcodeRow.Disjoint.not_both_match {r r' : OpcodeRow} (h : r.Disjoint r') {w : W32} (hr : r.matches w = true)
    (hr' : r'.matches w = true) : False := by
  rw [matches_iff] at hr hr'
  apply h
  rw [← hr, ← hr', BitVec.and_assoc, BitVec.and_assoc, BitVec.and_comm r.mask]

theorem opcodeRows_pairwise_disjoint (u : CmdUnit) : (opcodeRows u).Pairwise OpcodeRow.Disjoint := by
  unfold OpcodeRow.Disjoint
  cases u <;> decide

theorem matchingRows_length_le_one (u : CmdUnit) (w : W32) : ((opcodeRows u).filter fun r => r.matches w).length ≤ 1 := by
  have disjoint := (opcodeRows_pairwise_disjoint u).filter fun r => r.matches w
  have all_match : ∀ r ∈ (opcodeRows u).filter (fun r => r.matches w), r.matches w = true :=
    fun r hr => (List.mem_filter.1 hr).2
  generalize (opcodeRows u).filter (fun r => r.matches w) = rows at disjoint all_match
  match rows with
  | [] => exact Nat.zero_le 1
  | [_] => exact le_rfl
  | r :: r' :: _ =>
    have apart : r.Disjoint r' := List.rel_of_pairwise_cons disjoint (by simp)
    exact (apart.not_both_match (all_match r (by simp)) (all_match r' (by simp))).elim

theorem matchingRows_eq_nil_iff (u : CmdUnit) (w : W32) :
    (opcodeRows u).filter (fun r => r.matches w) = [] ↔ ¬∃ i, decode u w = .ok i := by
  rw [decode_ok_iff_exists_row, List.filter_eq_nil_iff]
  push Not
  rfl

theorem decode_error_iff (u : CmdUnit) (w : W32) : (∃ e, decode u w = .error e) ↔ ¬∃ i, decode u w = .ok i := by
  cases decode u w <;> simp

/-- Settles O3: the decoder's legal words are those of some row, and the rows are pairwise disjoint. -/
theorem legalWordsMatchOneRow : Obligations.LegalWordsMatchOneRow := by
  intro u w
  refine ⟨?legal, (decode_error_iff u w).trans (matchingRows_eq_nil_iff u w).symm⟩
  have at_most_one := matchingRows_length_le_one u w
  have none_iff := (matchingRows_eq_nil_iff u w).not_left.symm
  rw [none_iff, ← ne_eq, ← List.length_pos_iff]
  omega

end Sys2Proof

namespace Sys2Proof.Machine

/-! ## Writing an illegal word (R101, R104) -/

theorem State.writeWindow_commandOffset (s : State) (u : CmdUnit) (w : W32) :
    s.writeWindow (commandOffset u) w = s.issue u w := by cases u <;> rfl

theorem State.issue_of_decode_error {u : CmdUnit} {w : W32} {e : Illegal} (h : decode u w = .error e) (s : State) :
    s.issue u w = .next (s.raise u .ill) := by rw [State.issue, h]

/-- A word that does not decode, written to the command register of its unit, raises ILL in that unit. -/
theorem step_illegalWord {s : State} {rest : List HostEvent} {u : CmdUnit} {w : W32} {e : Illegal}
    (hp : s.pending = w32 (commandOffset u) w :: rest) (hd : decode u w = .error e) :
    step s = .next (({ s with pending := rest } : State).beginWrite.raise u .ill) := by
  rw [step_write s rest (commandOffset u) w hp (by cases u <;> decide) (by cases u <;> decide),
    State.writeWindow_commandOffset, State.issue_of_decode_error hd, Served.outcome]

/-- Settles O6: a word of no row does not decode (O3), and raising ILL touches the status register of its unit alone. -/
theorem illegalWordOnlySetsIll : Obligations.IllegalWordOnlySetsIll := by
  intro s rest u w hp noRow
  obtain ⟨e, hd⟩ := (legalWordsMatchOneRow u w).2.2 noRow
  refine ⟨_, step_illegalWord hp hd, ?_⟩
  cases u
  case fxu => exact ⟨rfl, rfl, fun _ => rfl, rfl, fun _ => rfl, rfl⟩
  case bwe => exact ⟨rfl, rfl, fun _ => rfl, rfl, fun _ => rfl, rfl⟩

end Sys2Proof.Machine
end

section
/-!
BWE.INIT (44_bwe_init.md R190, R191): the words of BWE_CTRL that are INIT, what its stores leave in DCEIP and VBIOS, and
BWE_VERSION as a number.
-/

namespace Sys2Proof

open Sys2Proof.Machine

/-! ## A BWE word field by field (R100) -/

@[simp] theorem cmdField_encodeBwe (cmd version : BitVec 4) (stoney : Bool) :
    cmdField (encodeBwe cmd version stoney) = cmd :=
  BitVec.eq_of_toNat_eq (by rw [cmdField, field_toNat, encodeBwe_toNat]; omega)

@[simp] theorem versionField_encodeBwe (cmd version : BitVec 4) (stoney : Bool) :
    versionField (encodeBwe cmd version stoney) = version :=
  BitVec.eq_of_toNat_eq (by rw [versionField, field_toNat, encodeBwe_toNat]; omega)

@[simp] theorem stoneyField_encodeBwe (cmd version : BitVec 4) (stoney : Bool) :
    stoneyField (encodeBwe cmd version stoney) = stoney := by
  have bit : (field (encodeBwe cmd version stoney) 8 1).toNat = stoney.toNat := by
    rw [field_toNat, encodeBwe_toNat]
    have := Bool.toNat_le stoney
    omega
  rw [stoneyField, Bool.eq_iff_iff, beq_iff_eq, ← BitVec.toNat_inj, bit]
  cases stoney <;> decide

@[simp] theorem bweHighBitsOk_encodeBwe (cmd version : BitVec 4) (stoney : Bool) :
    bweHighBitsOk (encodeBwe cmd version stoney) = true := by
  have := Bool.toNat_le stoney
  rw [bweHighBitsOk, beq_iff_eq]
  exact BitVec.eq_of_toNat_eq (by rw [field_toNat, encodeBwe_toNat]; simp; omega)

/-- A word whose bits 31:9 are zero is given by CMD, VERSION and STONEY_REV. -/
theorem eq_of_bweFields_eq {w w' : W32} (high : bweHighBitsOk w = true) (high' : bweHighBitsOk w' = true)
    (stoney : stoneyField w = stoneyField w') (version : versionField w = versionField w')
    (cmd : cmdField w = cmdField w') : w = w' := by
  have one_bit : ∀ x y : BitVec 1, (x == 1) = (y == 1) → x = y := by decide
  have bit8 : field w 8 1 = field w' 8 1 := one_bit _ _ stoney
  rw [bweHighBitsOk, beq_iff_eq] at high high'
  rw [eq_iff_cut w w' (m := 23) 9 rfl, field_eq_iff_cut w w' (k := 8) (m := 1) 8 rfl rfl,
    field_eq_iff_cut w w' (k := 4) (m := 4) 4 rfl rfl]
  exact ⟨high.trans high'.symm, bit8, version, cmd⟩

theorem eq_encodeBwe_iff (w : W32) (cmd version : BitVec 4) (stoney : Bool) :
    w = encodeBwe cmd version stoney ↔
      bweHighBitsOk w = true ∧ cmdField w = cmd ∧ versionField w = version ∧ stoneyField w = stoney := by
  constructor
  · rintro rfl; simp
  · rintro ⟨high, rfl, rfl, rfl⟩
    apply eq_of_bweFields_eq high <;> simp

/-! ## The words of INIT (R100) -/

theorem eq_of_checkedBwe_eq_ok {w : W32} {i j : Instr} (h : checkedBwe w i = .ok j) : j = i := by
  unfold checkedBwe at h
  split at h
  · exact (Except.ok.inj h).symm
  · cases h

/-- Of the rows of R100 only CMD = 1 decodes as INIT, with the VERSION and STONEY_REV of the word. -/
theorem decodeBwe_eq_bweInit_iff (w : W32) (version : BitVec 4) (stoney : Bool) :
    decodeBwe w = .ok (.bweInit version stoney) ↔
      bweHighBitsOk w = true ∧ cmdField w = 1 ∧ versionField w = version ∧ stoneyField w = stoney := by
  rw [← BitVec.toNat_inj]
  unfold decodeBwe
  split
  case h_1 cmd | h_3 cmd | h_4 cmd => exact iff_of_false (fun h => nomatch eq_of_checkedBwe_eq_ok h) (by simp [cmd])
  case h_2 cmd => cases bweHighBitsOk w <;> simp [cmd]
  case h_5 not_init _ _ => exact iff_of_false (fun h => nomatch h) fun ⟨_, cmd, _⟩ => not_init cmd

theorem onlyWord_bweInit (version : BitVec 4) (stoney : Bool) :
    OnlyWord .bwe (bweWord 1 version stoney) (.bweInit version stoney) := by
  intro w
  have word : bweWord 1 version stoney = encodeBwe 1 version stoney := bweWord_eq 1 version stoney
  rw [word, eq_encodeBwe_iff]
  exact decodeBwe_eq_bweInit_iff w version stoney

end Sys2Proof

namespace Sys2Proof.Machine

/-! ## What INIT leaves in the records and in BWE_VERSION (R190, R191) -/

theorem exec_bweInit (version : BitVec 4) (stoney : Bool) (s : State) :
    exec (.bweInit version stoney) s = .next (s.loadTables version stoney) := rfl

/-- STONEY counts for VERSION 1 alone (R190). -/
theorem stoneyRev_eq (version : BitVec 4) (stoney : Bool) :
    (stoney && version == 1) = (stoney && decide (version.toNat = 1)) := by
  have one : (version == 1) = decide (version.toNat = 1) := by
    rw [Bool.eq_iff_iff, beq_iff_eq, decide_eq_true_iff, ← BitVec.toNat_inj]
    rfl
  rw [one]

theorem versionWord_eq_ofNat (version : BitVec 4) (stoney : Bool) :
    versionWord version stoney = BitVec.ofNat 32 (version.toNat + 16 * stoney.toNat + 32) := by
  have fields : (versionWord version stoney).toNat = (0#26 ++ 1#1 ++ BitVec.ofBool stoney ++ version).toNat := rfl
  have := Bool.toNat_le stoney
  apply BitVec.eq_of_toNat_eq
  rw [fields]
  simp only [append_toNat, BitVec.toNat_ofNat, BitVec.toNat_ofBool]
  omega

/-- Everything a store of slots does to a byte: a stored byte does not depend on what the memory held. -/
theorem Memory.read_storeSlots (m : Memory) (base : Nat) (ws : List W64) (x : Nat) :
    (m.storeSlots base ws).read x =
      if base ≤ x ∧ x < base + 8 * ws.length then (ws.flatMap bytesOfSlot)[x - base]? else m.read x := by
  rw [Memory.storeSlots, Memory.read_store, flatMap_bytesOfSlot_length]

/-- INIT writes every byte of DCEIP and VBIOS, whatever they held (R190, R194). -/
theorem read_loadTables_inside (s s' : State) (version : BitVec 4) (stoney : Bool) {a : Nat}
    (h : 0x1000 ≤ a ∧ a < 0x2000) :
    (s.loadTables version stoney).mem.read a = (s'.loadTables version stoney).mem.read a := by
  simp only [State.loadTables_mem, Memory.read_storeSlots, initDceip_length, initVbios_length, slotOffset, dceipBase,
    vbiosBase]
  rcases Nat.lt_or_ge a 0x1800 with dceip | vbios
  · have inDceip : 0x1000 + 8 * 0 ≤ a ∧ a < 0x1000 + 8 * 0 + 8 * 256 := by omega
    rw [if_pos inDceip, if_pos inDceip]
  · have inVbios : 0x1800 + 8 * 0 ≤ a ∧ a < 0x1800 + 8 * 0 + 8 * 256 := by omega
    rw [if_pos inVbios, if_pos inVbios]

theorem slot_loadTables_dceip_eq (s : State) (version : BitVec 4) (stoney : Bool) {k : Nat} (h : k < 256) :
    (s.loadTables version stoney).mem.slot (0x1000 + 8 * k) =
      some (if 1 ≤ version.toNat ∧ version.toNat ≤ 3 then
        capDceipSlot version.toNat (stoney && decide (version.toNat = 1)) k else 0) := by
  have stored := slot_loadTables_dceip s version stoney k h
  simpa only [slotOffset, dceipBase, initDceip, List.getElem_map, List.getElem_range, stoneyRev_eq] using stored

theorem slot_loadTables_vbios_eq (s : State) (version : BitVec 4) (stoney : Bool) {k : Nat} (h : k < 256) :
    (s.loadTables version stoney).mem.slot (0x1800 + 8 * k) =
      some (if 1 ≤ version.toNat ∧ version.toNat ≤ 3 then capVbiosSlot version.toNat k else 0) := by
  have stored := slot_loadTables_vbios s version stoney k h
  simpa only [slotOffset, vbiosBase, initVbios, List.getElem_map, List.getElem_range] using stored

theorem State.loadTables_frame (s : State) (version : BitVec 4) (stoney : Bool) :
    BweFrame s (s.loadTables version stoney) := ⟨fun _ => rfl, rfl, rfl, rfl, rfl⟩

/-- Settles O35: INIT completes in `loadTables`, whose 512 slots, version word and frame are given above. -/
theorem initLoadsTables : Obligations.InitLoadsTables := by
  intro version stoney s known st
  have versionRegister : (s.loadTables version stoney).bweVersion = BitVec.ofNat 32 (version.toNat + 16 * st.toNat + 32) := by
    rw [State.loadTables_bweVersion, stoneyRev_eq, versionWord_eq_ofNat]
  refine ⟨onlyWord_bweInit version stoney, s.loadTables version stoney, exec_bweInit version stoney s,
    fun k hk => ⟨slot_loadTables_dceip_eq s version stoney hk, slot_loadTables_vbios_eq s version stoney hk⟩,
    ?sameBytes, read_loadTables_outside s version stoney, versionRegister, State.loadTables_bweStatus s version stoney,
    s.loadTables_frame version stoney⟩
  case sameBytes =>
    intro s' t' run a lo hi
    obtain rfl := Host.Outcome.next.inj ((exec_bweInit version stoney s').symm.trans run)
    exact read_loadTables_inside s' s version stoney ⟨lo, hi⟩

end Sys2Proof.Machine
end

section
/-!
RESULTS as the stages of CALC_CORE leave it one after the other (45_bwe_calculate.md R203): the part of RESULTS that stages
1 to k write is in the finished RESULTS what it was after stage k. Every statement about a field of a finished calculation
is read off after the stage that writes the field.
-/

namespace Sys2Proof.Machine

/-! ## The part of RESULTS that stages 1 to k write -/

/-- A field that stage j writes, once stage k has run: not yet written if j is above k. -/
def onceStage {α : Type} [Inhabited α] (j k : Nat) (x : α) : α := if j ≤ k then x else default

theorem onceStage_of_le {α : Type} [Inhabited α] {j k : Nat} (h : j ≤ k) (x : α) : onceStage j k x = x := if_pos h

theorem onceStage_of_lt {α : Type} [Inhabited α] {j k : Nat} (h : k < j) (x y : α) : onceStage j k x = onceStage j k y := by
  rw [onceStage, onceStage, if_neg (Nat.not_le.2 h), if_neg (Nat.not_le.2 h)]

/-- The per-surface fields that stages 1 to k write. -/
def Surface.upTo (k : Nat) (s : Surface) : Surface where
  cls := onceStage 1 k s.cls
  geo := onceStage 2 k s.geo
  lbPartitions := onceStage 3 k s.lbPartitions
  req := onceStage 4 k s.req
  bw := onceStage 5 k s.bw
  buf := onceStage 6 k s.buf
  wm := onceStage 12 k s.wm

/-- The fields of RESULTS whose last write is made by one of stages 1 to k, without the extension fields. -/
def Results.upTo (k : Nat) (r : Results) : Results where
  surfaces := r.surfaces.map (Surface.upTo k)
  modeCheck := onceStage 3 k r.modeCheck
  pipeCheck := onceStage 3 k r.pipeCheck
  hsrCheck := onceStage 3 k r.hsrCheck
  vsrCheck := onceStage 3 k r.vsrCheck
  lbSizeCheck := onceStage 3 k r.lbSizeCheck
  fbcCheck := onceStage 3 k r.fbcCheck
  rotationCheck := onceStage 3 k r.rotationCheck
  numberOfEnabledGraphics := onceStage 3 k r.numberOfEnabledGraphics
  numberOfEnabledUnderlay := onceStage 3 k r.numberOfEnabledUnderlay
  numberOfEnabledWriteback := onceStage 3 k r.numberOfEnabledWriteback
  pteRequestCheck := onceStage 6 k r.pteRequestCheck
  totalDmifDramBandwidth := onceStage 7 k r.totalDmifDramBandwidth
  totalMcifwrDramBandwidth := onceStage 7 k r.totalMcifwrDramBandwidth
  totalDmifSclkBandwidth := onceStage 7 k r.totalDmifSclkBandwidth
  totalMcifwrSclkBandwidth := onceStage 7 k r.totalMcifwrSclkBandwidth
  requiredDramBandwidthGbytePerSecond := onceStage 7 k r.requiredDramBandwidthGbytePerSecond
  availableDramBandwidth := onceStage 7 k r.availableDramBandwidth
  availableSclkBandwidth := onceStage 7 k r.availableSclkBandwidth
  pageCloseOpenCheck := onceStage 7 k r.pageCloseOpenCheck
  maximumBwCheck := onceStage 7 k r.maximumBwCheck
  grid := onceStage 8 k r.grid
  stateChangeEnable := onceStage 8 k r.stateChangeEnable
  yClkLevel := onceStage 9 k r.yClkLevel
  sclkLevel := onceStage 9 k r.sclkLevel
  requiredYclk := onceStage 9 k r.requiredYclk
  dispclkReqPixelThroughput := onceStage 10 k r.dispclkReqPixelThroughput
  dispclkReqScalerThroughput := onceStage 10 k r.dispclkReqScalerThroughput
  dispclkReqReadRequestThroughput := onceStage 10 k r.dispclkReqReadRequestThroughput
  dispclkRequiredWithoutRamping := onceStage 10 k r.dispclkRequiredWithoutRamping
  dispclkRequiredWithRamping := onceStage 10 k r.dispclkRequiredWithRamping
  dispclkVoltageTier := onceStage 10 k r.dispclkVoltageTier
  dispclk := onceStage 11 k r.dispclk
  requiredSclk := onceStage 11 k r.requiredSclk
  voltage := onceStage 11 k r.voltage
  dramAccessEfficiency := onceStage 13 k r.dramAccessEfficiency
  writeAccessEfficiency := onceStage 13 k r.writeAccessEfficiency
  averageBandwidthNoCompression := onceStage 13 k r.averageBandwidthNoCompression
  averageBandwidth := onceStage 13 k r.averageBandwidth
  stutterEfficiency := onceStage 13 k r.stutterEfficiency
  immediateFlipLatency := onceStage 13 k r.immediateFlipLatency
  worstCaseLatencyNonDisplay := onceStage 13 k r.worstCaseLatencyNonDisplay

theorem Results.upTo_ignoresExt (k : Nat) : IgnoresExt (Results.upTo k) := fun _ _ => rfl

theorem Results.upTo_ignoresSurface {k : Nat} {change : Surface → Surface → Prop}
    (h : ∀ a b, change a b → b.upTo k = a.upTo k) : IgnoresSurface (Results.upTo k) change := by
  intro r i s changed
  have surfaces : (r.surfaces.set i s).map (Surface.upTo k) = r.surfaces.map (Surface.upTo k) := by
    ext1 j hj
    by_cases hji : (i : Nat) = j
    · subst hji; simpa using h _ _ changed
    · simp [hji]
  unfold Results.upTo
  simp only [surfaces]

/-! Stage j leaves what the stages up to k, below j, have written. -/

theorem stage2_keeps_upTo (env : CalcEnv) {k : Nat} (h : k < 2) : Keeps (Results.upTo k) (stage2 env) :=
  stage2_keeps env (Results.upTo_ignoresSurface fun a b e => by
    rw [e]; simp only [Surface.upTo, onceStage_of_lt h b.geo a.geo])

theorem stage3_keeps_upTo (env : CalcEnv) {k : Nat} (h : k < 3) : Keeps (Results.upTo k) (stage3 env) :=
  stage3_keeps env (Results.upTo_ignoresExt k)
    (Results.upTo_ignoresSurface fun a b e => by
      rw [e]; simp only [Surface.upTo, onceStage_of_lt h b.lbPartitions a.lbPartitions])
    fun r _ _ _ _ _ _ _ _ _ _ => by simp only [Results.upTo, onceStage, if_neg (Nat.not_le.2 h)]

theorem stage4_keeps_upTo (env : CalcEnv) {k : Nat} (h : k < 4) : Keeps (Results.upTo k) (stage4 env) :=
  stage4_keeps env (Results.upTo_ignoresExt k) (Results.upTo_ignoresSurface fun a b e => by
    rw [e]; simp only [Surface.upTo, onceStage_of_lt h b.req a.req])

theorem stage5_keeps_upTo (env : CalcEnv) {k : Nat} (h : k < 5) : Keeps (Results.upTo k) (stage5 env) :=
  stage5_keeps env (Results.upTo_ignoresExt k) (Results.upTo_ignoresSurface fun a b e => by
    rw [e]; simp only [Surface.upTo, onceStage_of_lt h b.bw a.bw])

theorem stage6_keeps_upTo (env : CalcEnv) {k : Nat} (h : k < 6) : Keeps (Results.upTo k) (stage6 env) :=
  stage6_keeps env (Results.upTo_ignoresExt k)
    (Results.upTo_ignoresSurface fun a b e => by rw [e]; simp only [Surface.upTo, onceStage_of_lt h b.buf a.buf])
    fun r _ => by simp only [Results.upTo, onceStage, if_neg (Nat.not_le.2 h)]

theorem stage7_keeps_upTo (env : CalcEnv) {k : Nat} (h : k < 7) : Keeps (Results.upTo k) (stage7 env) :=
  stage7_keeps env (Results.upTo_ignoresExt k)
    fun r _ _ _ _ _ _ _ _ _ => by simp only [Results.upTo, onceStage, if_neg (Nat.not_le.2 h)]

theorem stage8_keeps_upTo (env : CalcEnv) {k : Nat} (h : k < 8) : Keeps (Results.upTo k) (stage8 env) :=
  stage8_keeps env (Results.upTo_ignoresExt k)
    fun r _ _ => by simp only [Results.upTo, onceStage, if_neg (Nat.not_le.2 h)]

theorem stage9_keeps_upTo (env : CalcEnv) (totals : Totals) {k : Nat} (h : k < 9) :
    Keeps (Results.upTo k) (stage9 env totals) :=
  stage9_keeps env totals fun r _ _ _ _ => by
    have h11 : ¬11 ≤ k := by omega
    simp only [Results.upTo, onceStage, if_neg (Nat.not_le.2 h), if_neg h11]

theorem stage10_keeps_upTo (env : CalcEnv) {k : Nat} (h : k < 10) : Keeps (Results.upTo k) (stage10 env) :=
  stage10_keeps env (Results.upTo_ignoresExt k) fun r _ _ _ _ _ _ _ => by
    have h11 : ¬11 ≤ k := by omega
    simp only [Results.upTo, onceStage, if_neg (Nat.not_le.2 h), if_neg h11]

theorem stage11_keeps_upTo (env : CalcEnv) (noFit : NoFit) {k : Nat} (h : k < 11) :
    Keeps (Results.upTo k) (stage11 env noFit) :=
  stage11_keeps env noFit fun r _ _ _ => by simp only [Results.upTo, onceStage, if_neg (Nat.not_le.2 h)]

theorem stage12_keeps_upTo (env : CalcEnv) {k : Nat} (h : k < 12) : Keeps (Results.upTo k) (stage12 env) :=
  stage12_keeps env (Results.upTo_ignoresExt k) (Results.upTo_ignoresSurface fun a b e => by
    rw [e]; simp only [Surface.upTo, onceStage_of_lt h b.wm a.wm])

theorem stage13_keeps_upTo (env : CalcEnv) {k : Nat} (h : k < 13) : Keeps (Results.upTo k) (stage13 env) :=
  stage13_keeps env (Results.upTo_ignoresExt k)
    fun r _ _ _ _ _ _ _ => by simp only [Results.upTo, onceStage, if_neg (Nat.not_le.2 h)]

/-! ## The calculation after each stage -/

/-- The calculation after stage 1, from a cleared RESULTS. -/
def afterStage1 (env : CalcEnv) (draws : Nat) : CalcState := (stage1 env (CalcState.start draws)).2

theorem afterStage2_eq (env : CalcEnv) (draws : Nat) : afterStage2 env draws = (stage2 env (afterStage1 env draws)).2 := by
  rw [afterStage2, afterStage1]

/-- The calculation after stage 4. -/
def afterStage4 (env : CalcEnv) (draws : Nat) : CalcState := (stage4 env (afterStage3 env draws)).2

/-- The calculation after stage 5. -/
def afterStage5 (env : CalcEnv) (draws : Nat) : CalcState := (stage5 env (afterStage4 env draws)).2

/-- The calculation after stage 6. -/
def afterStage6 (env : CalcEnv) (draws : Nat) : CalcState := (stage6 env (afterStage5 env draws)).2

/-- The totals that stage 7 hands to stage 9, with the calculation after stage 7. -/
def afterStage7 (env : CalcEnv) (draws : Nat) : Totals × CalcState := stage7 env (afterStage6 env draws)

/-- The calculation after stage 8. -/
def afterStage8 (env : CalcEnv) (draws : Nat) : CalcState := (stage8 env (afterStage7 env draws).2).2

/-- What stage 9 hands to stage 11, with the calculation after stage 9. -/
def afterStage9 (env : CalcEnv) (draws : Nat) : NoFit × CalcState :=
  stage9 env (afterStage7 env draws).1 (afterStage8 env draws)

/-- The calculation after stage 10. -/
def afterStage10 (env : CalcEnv) (draws : Nat) : CalcState := (stage10 env (afterStage9 env draws).2).2

/-- The calculation after stage 11. -/
def afterStage11 (env : CalcEnv) (draws : Nat) : CalcState := (stage11 env (afterStage9 env draws).1 (afterStage10 env draws)).2

theorem resultsOf_eq_stage13 (env : CalcEnv) (draws : Nat) :
    resultsOf env draws = (stage13 env (stage12 env (afterStage11 env draws)).2).2.results := by
  have cleared : (changeResults (fun _ => Results.zero) (CalcState.start draws)).2 = CalcState.start draws := rfl
  simp only [resultsOf, calcCore, CalcM.bind_apply, cleared, afterStage11, afterStage10, afterStage9, afterStage8, afterStage7,
    afterStage6, afterStage5, afterStage4, afterStage3, afterStage2]

section

variable (env : CalcEnv) (draws : Nat) {k : Nat}

theorem resultsOf_upTo11 (h : k < 12) :
    (resultsOf env draws).upTo k = (afterStage11 env draws).results.upTo k := by
  rw [resultsOf_eq_stage13, stage13_keeps_upTo env (by omega), stage12_keeps_upTo env h]

theorem resultsOf_upTo10 (h : k < 11) :
    (resultsOf env draws).upTo k = (afterStage10 env draws).results.upTo k := by
  rw [resultsOf_upTo11 env draws (by omega), afterStage11, stage11_keeps_upTo env _ h]

theorem resultsOf_upTo9 (h : k < 10) :
    (resultsOf env draws).upTo k = (afterStage9 env draws).2.results.upTo k := by
  rw [resultsOf_upTo10 env draws (by omega), afterStage10, stage10_keeps_upTo env h]

theorem resultsOf_upTo8 (h : k < 9) :
    (resultsOf env draws).upTo k = (afterStage8 env draws).results.upTo k := by
  rw [resultsOf_upTo9 env draws (by omega), afterStage9, stage9_keeps_upTo env _ h]

theorem resultsOf_upTo7 (h : k < 8) :
    (resultsOf env draws).upTo k = (afterStage7 env draws).2.results.upTo k := by
  rw [resultsOf_upTo8 env draws (by omega), afterStage8, stage8_keeps_upTo env h]

theorem resultsOf_upTo6 (h : k < 7) :
    (resultsOf env draws).upTo k = (afterStage6 env draws).results.upTo k := by
  rw [resultsOf_upTo7 env draws (by omega), afterStage7, stage7_keeps_upTo env h]

theorem resultsOf_upTo5 (h : k < 6) :
    (resultsOf env draws).upTo k = (afterStage5 env draws).results.upTo k := by
  rw [resultsOf_upTo6 env draws (by omega), afterStage6, stage6_keeps_upTo env h]

theorem resultsOf_upTo4 (h : k < 5) :
    (resultsOf env draws).upTo k = (afterStage4 env draws).results.upTo k := by
  rw [resultsOf_upTo5 env draws (by omega), afterStage5, stage5_keeps_upTo env h]

theorem resultsOf_upTo3 (h : k < 4) :
    (resultsOf env draws).upTo k = (afterStage3 env draws).results.upTo k := by
  rw [resultsOf_upTo4 env draws (by omega), afterStage4, stage4_keeps_upTo env h]

theorem resultsOf_upTo2 (h : k < 3) :
    (resultsOf env draws).upTo k = (afterStage2 env draws).results.upTo k := by
  rw [resultsOf_upTo3 env draws (by omega), afterStage3, stage3_keeps_upTo env h]

theorem resultsOf_upTo1 (h : k < 2) :
    (resultsOf env draws).upTo k = (afterStage1 env draws).results.upTo k := by
  rw [resultsOf_upTo2 env draws (by omega), afterStage2, stage2_keeps_upTo env h, afterStage1]

end

/-! ## One slot of RESULTS -/

/-- What stages 1 to k have written is the same in every slot. -/
theorem slotView_upTo_eq {k : Nat} {r r' : Results} (h : r.upTo k = r'.upTo k) (i : Slot) :
    (slotView i r).upTo k = (slotView i r').upTo k := by
  have surfaces : r.surfaces.map (Surface.upTo k) = r'.surfaces.map (Surface.upTo k) := congrArg Results.surfaces h
  simpa [slotView] using congrArg (fun v : Vector Surface 12 => v[i]) surfaces

section

variable {k : Nat} {s s' : Surface}

theorem Surface.cls_eq_of_upTo (h : s.upTo k = s'.upTo k) (hk : 1 ≤ k) : s.cls = s'.cls := by
  simpa only [Surface.upTo, onceStage_of_le hk] using congrArg (fun s : Surface => s.cls) h

theorem Surface.geo_eq_of_upTo (h : s.upTo k = s'.upTo k) (hk : 2 ≤ k) : s.geo = s'.geo := by
  simpa only [Surface.upTo, onceStage_of_le hk] using congrArg (fun s : Surface => s.geo) h

theorem Surface.core_eq_of_upTo (h : s.upTo k = s'.upTo k) (hk : 6 ≤ k) : s.toSurfaceCore = s'.toSurfaceCore := by
  have all : ∀ j, j ≤ 6 → j ≤ k := fun j hj => by omega
  have core := congrArg Surface.toSurfaceCore h
  simpa only [Surface.upTo, onceStage_of_le (all 1 (by omega)), onceStage_of_le (all 2 (by omega)),
    onceStage_of_le (all 3 (by omega)), onceStage_of_le (all 4 (by omega)), onceStage_of_le (all 5 (by omega)),
    onceStage_of_le hk] using core

end

end Sys2Proof.Machine
end

section
/-!
What the operations inside a calculation answer: an FXU operation that does not divide by zero, a sum, a call of a stage
formula; and what a loop over the enabled slots leaves in an enabled slot.
-/

namespace Sys2Proof.Machine

/-! ## FXU operations (40_fxu_arith.md, 41_fxu_rounding.md) -/

theorem Fx.withOv_word? (ov : Bool) (v : W64) : (Fx.withOv ov v).word? = some v := by cases ov <;> rfl

theorem Fx.add_word? (a b : W64) : (Fx.add a b).word? = some (a + b) := by
  rw [Fx.add, Fx.narrow, Fx.withOv_word?, Fx.wrap, BitVec.ofInt_add, BitVec.ofInt_toInt, BitVec.ofInt_toInt]

theorem Fx.sub_word? (a b : W64) : (Fx.sub a b).word? = some (a - b) := by
  have wraps : Fx.wrap (a.toInt - b.toInt) = a - b := BitVec.eq_of_toInt_eq (by rw [Fx.toInt_wrap, BitVec.toInt_sub])
  rw [Fx.sub, Fx.narrow, Fx.withOv_word?, wraps]

theorem Fx.mul_word?_isSome (a b : W64) : (Fx.mul a b).word?.isSome = true := by rw [Fx.mul, Fx.withOv_word?]; rfl

theorem Fx.div_word?_isSome (a : W64) {b : W64} (h : b ≠ 0) : (Fx.div a b).word?.isSome = true := by
  rw [Fx.div, Fx.frac, if_neg h, Fx.withOv_word?]; rfl

theorem Fx.ceil_word?_isSome (a : W64) {q : W64} (h : q ≠ 0) : (Fx.ceil a q).word?.isSome = true := by
  rw [Fx.ceil, if_neg h]
  dsimp only
  split
  · rw [Fx.narrow, Fx.withOv_word?]; rfl
  · rfl

theorem Fx.le_iff (a b : W64) : Fx.le a b = true ↔ a.toInt ≤ b.toInt := decide_eq_true_iff

theorem Fx.gt_iff (a b : W64) : Fx.gt a b = true ↔ b.toInt < a.toInt := decide_eq_true_iff

theorem Fx.ge_iff (a b : W64) : Fx.ge a b = true ↔ b.toInt ≤ a.toInt := decide_eq_true_iff

/-- MIN keeps its first operand unless the second is less (42_fxu_select_compare.md R160). -/
theorem Fx.min_eq (a b : W64) : Fx.min a b = if b.toInt < a.toInt then b else a := by
  by_cases h : a.toInt ≤ b.toInt
  · rw [Fx.min, if_pos ((Fx.le_iff a b).2 h), if_neg (by omega)]
  · rw [Fx.min, if_neg (mt (Fx.le_iff a b).1 h), if_pos (by omega)]

/-! ## Inside a calculation (R202, R231, R235) -/

theorem fxOp_of_isSome {x : FxResult} (h : x.word?.isSome = true) (c : CalcState) : x.word? = some (fxOp x c).1 := by
  cases x with
  | exact v => rfl
  | overflow v => rfl
  | divByZero => cases h

@[simp] theorem fxOp_add (a b : W64) (c : CalcState) : (fxOp (Fx.add a b) c).1 = a + b :=
  Option.some.inj ((fxOp_of_isSome (by rw [Fx.add_word?]; rfl) c).symm.trans (Fx.add_word? a b))

@[simp] theorem fxOp_sub (a b : W64) (c : CalcState) : (fxOp (Fx.sub a b) c).1 = a - b :=
  Option.some.inj ((fxOp_of_isSome (by rw [Fx.sub_word?]; rfl) c).symm.trans (Fx.sub_word? a b))

theorem fxOp_mul (a b : W64) (c : CalcState) : (Fx.mul a b).word? = some (fxOp (Fx.mul a b) c).1 :=
  fxOp_of_isSome (Fx.mul_word?_isSome a b) c

/-- A sum of the BWE is the sum of the words modulo 2^64, whatever it overflows (R202). -/
theorem sumWords_value (ws : List W64) (c : CalcState) : (sumWords ws c).1 = wrappedSum ws := by
  have fold : ∀ (acc : W64) (c : CalcState),
      (ws.foldlM (fun acc w => fxOp (Fx.add acc w)) acc c).1 = ws.foldl (· + ·) acc := by
    induction ws with
    | nil => intro acc c; rfl
    | cons w ws ih => intro acc c; rw [List.foldlM_cons, CalcM.bind_apply, ih, fxOp_add, List.foldl_cons]
  exact fold 0 c

@[simp] theorem sumWords_results (ws : List W64) (c : CalcState) : (sumWords ws c).2.results = c.results :=
  Keeps.sumWords (g := id) ws c

theorem callStage_answers (env : CalcEnv) (f : Config.Ext → Config.StageProgram) (c : CalcState) :
    Answers env f (callStage env f c).1 := ⟨c, rfl⟩

@[simp] theorem slotView_callStage (env : CalcEnv) (f : Config.Ext → Config.StageProgram) (i : Slot) (c : CalcState) :
    slotView i (callStage env f c).2.results = slotView i c.results :=
  Keeps.callStage env f (slotView_ignoresExt i) c

/-! ## An enabled slot through a loop -/

/-- A slot of RESULTS by its name: `slotView` keeps a large `r` from being unfolded where two proofs of `i < 12` meet. -/
theorem surface_eq_slotView (r : Results) (i : Slot) : r.surfaces[i] = slotView i r := rfl

theorem getSurface_eq_slotView (i : Slot) (c : CalcState) : getSurface i c = (slotView i c.results, c) := getSurface_apply i c

/-- A loop leaves in an enabled slot what its body makes of the slot, from a state that shows the slot as before the loop. -/
theorem forEnabled_surface {f : Slot → CalcM Unit} (own : ∀ i j : Slot, j ≠ i → Keeps (slotView j) (f i)) (i : Slot)
    (c : CalcState) (enabled : (slotView i c.results).cls.enable = true) :
    ∃ c' : CalcState, slotView i c'.results = slotView i c.results
      ∧ slotView i (forEnabled f c).2.results = slotView i (f i c').2.results := by
  obtain ⟨c', same, -, after⟩ := forEnabled_slot (fun _ => ()) f own (fun _ _ => rfl) i c
  exact ⟨c', same, after.trans (if_pos enabled)⟩

/-! ## What a calculation answers and leaves, whatever the extension fields

Stages 7 and 8 only answer, until one change of RESULTS at their end: the formulas they call write extension fields alone. -/

/-- From RESULTS `r`, with any extension fields, the calculation answers and leaves what `Q` says. -/
def Ensures {α : Type} (r : Results) (m : CalcM α) (Q : α → Results → Prop) : Prop :=
  ∀ (c : CalcState) (e : List (Nat × W64)), c.results = { r with ext := e } → Q (m c).1 (m c).2.results

/-- From RESULTS `r`, with any extension fields, the calculation answers what `P` says and changes extension fields alone. -/
def Finds {α : Type} (r : Results) (m : CalcM α) (P : α → Prop) : Prop :=
  Ensures r m fun a r' => P a ∧ ∃ e, r' = { r with ext := e }

section

variable {α β : Type} {r : Results}

theorem Ensures.run {m : CalcM α} {Q : α → Results → Prop} (c : CalcState) (h : Ensures c.results m Q) :
    Q (m c).1 (m c).2.results := h c c.results.ext rfl

theorem Ensures.bind {m : CalcM α} {f : α → CalcM β} {P : α → Prop} {Q : β → Results → Prop} (found : Finds r m P)
    (next : ∀ a, P a → Ensures r (f a) Q) : Ensures r (m >>= f) Q := by
  intro c e hc
  obtain ⟨ha, e', hc'⟩ := found c e hc
  exact next _ ha _ e' hc'

/-- The change of RESULTS at the end of a stage, and what the stage then answers. -/
theorem Ensures.changeResults_pure {a : α} {g : Results → Results} {Q : α → Results → Prop}
    (h : ∀ e, Q a (g { r with ext := e })) : Ensures r (changeResults g >>= fun _ => pure a) Q := by
  intro c e hc
  simp only [CalcM.bind_apply, CalcM.pure_apply, changeResults_apply, hc]
  exact h e

theorem Ensures.changeResults {g : Results → Results} {Q : Unit → Results → Prop}
    (h : ∀ e, Q () (g { r with ext := e })) : Ensures r (changeResults g) Q := by
  intro c e hc
  rw [changeResults_apply, hc]
  exact h e

theorem Finds.pure {a : α} {P : α → Prop} (h : P a) : Finds r (pure a) P := fun _ e hc => ⟨h, e, hc⟩

theorem Finds.bind {m : CalcM α} {f : α → CalcM β} {P : α → Prop} {P' : β → Prop} (found : Finds r m P)
    (next : ∀ a, P a → Finds r (f a) P') : Finds r (m >>= f) P' := Ensures.bind found next

theorem Finds.getResults : Finds r getResults fun r' => ∃ e, r' = { r with ext := e } := fun _ e hc => ⟨⟨e, hc⟩, e, hc⟩

theorem Finds.callStage (env : CalcEnv) (f : Config.Ext → Config.StageProgram) : Finds r (callStage env f) (Answers env f) := by
  intro c e hc
  obtain ⟨e', he'⟩ := callStage_results env f c
  exact ⟨callStage_answers env f c, e', by rw [he', hc]⟩

theorem Finds.fxOp_add (a b : W64) : Finds r (fxOp (Fx.add a b)) (· = a + b) := fun c e hc =>
  ⟨Machine.fxOp_add a b c, e, by rw [fxOp_results, hc]⟩

theorem Finds.fxOp_sub (a b : W64) : Finds r (fxOp (Fx.sub a b)) (· = a - b) := fun c e hc =>
  ⟨Machine.fxOp_sub a b c, e, by rw [fxOp_results, hc]⟩

theorem Finds.sumWords (ws : List W64) : Finds r (sumWords ws) (· = wrappedSum ws) := fun c e hc =>
  ⟨sumWords_value ws c, e, by rw [sumWords_results, hc]⟩

/-- Each tier's answer is one that the tier alone would find. -/
theorem Finds.forTiers {f : Tier → CalcM α} {P : Tier → α → Prop} (found : ∀ t, Finds r (f t) (P t)) :
    Finds r (forTiers f) fun p => ∀ t, P t (p.get t) := by
  refine Finds.bind (found .low) fun low hlow => Finds.bind (found .mid) fun mid hmid =>
    Finds.bind (found .high) fun high hhigh => Finds.pure fun t => ?_
  cases t with
  | low => exact hlow
  | mid => exact hmid
  | high => exact hhigh

end

/-! ## Lists over the enabled slots -/

theorem enabledViews_congr {α : Type} {view : Surface → α} {r r' : Results}
    (cls : ∀ i, (slotView i r).cls = (slotView i r').cls) (same : ∀ i, view (slotView i r) = view (slotView i r')) :
    r.enabledViews view = r'.enabledViews view := by
  have enabled : r.enabled = r'.enabled := by
    funext i
    simp only [Results.enabled, surface_eq_slotView, cls]
  simp only [Results.enabledViews, enabled, surface_eq_slotView, same]

end Sys2Proof.Machine
end

section
/-!
Stage 1 in the finished RESULTS (45_bwe_calculate.md R201, R204 to R206).
-/

namespace Sys2Proof.Machine

theorem afterStage1_cls (env : CalcEnv) (draws : Nat) (i : Slot) :
    (slotView i (afterStage1 env draws).results).cls = classify env i := by
  simp [afterStage1, stage1, slotView]

/-- The stages after the first leave the classification. -/
theorem resultsOf_cls (env : CalcEnv) (draws : Nat) (i : Slot) :
    (slotView i (resultsOf env draws)).cls = classify env i := by
  have slot := slotView_upTo_eq (resultsOf_upTo1 env draws (k := 1) (by omega)) i
  rw [Surface.cls_eq_of_upTo slot le_rfl, afterStage1_cls]

/-! ## The role of each slot (R201) -/

theorem classify_graphicsSlot (env : CalcEnv) (q : Fin 6) : classify env (graphicsSlot q) = classifyGraphics env q := by
  match q with
  | 0 | 1 | 2 | 3 | 4 | 5 => rfl

theorem classify_luma (env : CalcEnv) (u : Fin 2) (i : Slot) (h : i.val = 2 * u.val) :
    classify env i = classifyUnderlay env u .luma := by
  unfold classify
  rw [h]
  match u with
  | 0 | 1 => rfl

theorem classify_chroma (env : CalcEnv) (u : Fin 2) (i : Slot) (h : i.val = 2 * u.val + 1) :
    classify env i = classifyUnderlay env u .chroma := by
  unfold classify
  rw [h]
  match u with
  | 0 | 1 => rfl

theorem classify_writeback (env : CalcEnv) :
    classify env 10 = classifyWriteback env .writebackLuma ∧ classify env 11 = classifyWriteback env .writebackChroma :=
  ⟨rfl, rfl⟩

/-! ## Each role (R204 to R206) -/

theorem beq_blended (m : UnderlayMode) : (m == .blended) = decide (m = .blended) := by cases m <;> rfl

/-- The luma slot takes the surface type of the underlay format (R204). -/
theorem classifyUnderlay_luma (env : CalcEnv) (u : Nat) :
    classifyUnderlay env u .luma =
      if u < env.mode.n ∧ env.mode.underlayMode u ≠ .none then
        { enable := true
          surfaceType := match env.mode.underlayFormat with
            | .f420 => .underlay420Luma
            | .f422 => .underlay422
            | .f444 => .underlay444
          bytesPerPixel := env.params.ulBpp env.mode.underlayFormat .luma, displayIndex := u }
      else {} := by
  unfold classifyUnderlay
  cases env.mode.underlayFormat <;> rfl

/-- Only a 420 underlay has a chroma slot (R204). -/
theorem classifyUnderlay_chroma (env : CalcEnv) (u : Nat) :
    classifyUnderlay env u .chroma =
      if u < env.mode.n ∧ env.mode.underlayMode u ≠ .none ∧ env.mode.underlayFormat = .f420 then
        { enable := true, surfaceType := .underlay420Chroma, bytesPerPixel := env.params.ulBpp .f420 .chroma
          displayIndex := u }
      else {} := by
  unfold classifyUnderlay
  cases format : env.mode.underlayFormat with
  | f420 => simp
  | f422 => simp
  | f444 => simp

/-- Settles O41: stage 1 classifies each slot by its role, and no later stage touches the classification. -/
theorem surfaceClassification : Obligations.SurfaceClassification := by
  intro env draws
  simp only [surface_eq_slotView, resultsOf_cls]
  refine ⟨fun q => ?graphics, fun u luma chroma hl hc => ⟨?luma, ?chroma⟩, ?writebackLuma, ?writebackChroma⟩
  case graphics => rw [classify_graphicsSlot, classifyGraphics, beq_blended]
  case luma =>
    rw [classify_luma env u luma hl]
    exact classifyUnderlay_luma env u
  case chroma => rw [classify_chroma env u chroma hc, classifyUnderlay_chroma]
  case writebackLuma => rw [(classify_writeback env).1, classifyWriteback]
  case writebackChroma => rw [(classify_writeback env).2, classifyWriteback]

end Sys2Proof.Machine
end

section
/-!
Stage 2 in the finished RESULTS (45_bwe_calculate.md R207 to R212): how the geometry of a slot comes from what its role
copies, and CEIL to a positive quantum.
-/

namespace Sys2Proof.Machine

/-! ## R207 to R212 one by one -/

/-- Every field that a slot copies, by its role (R207). -/
theorem sourceGeometry_eq (env : CalcEnv) (k : SurfClass) :
    sourceGeometry env k =
      let d := env.mode.display k.displayIndex
      let u := env.mode.underlay
      let w := env.mode.writeback
      let t := k.surfaceType
      { sourceWidth := t.pick d.srcWidth u.srcWidth w.srcWidth, sourceHeight := t.pick d.srcHeight u.srcHeight w.srcHeight
        hsr := t.pick d.hsr u.hsr w.hsr, vsr := t.pick d.vsr u.vsr w.vsr
        hTaps := t.pick d.hTaps u.hTaps w.hTaps, vTaps := t.pick d.vTaps u.vTaps w.vTaps
        rotationAngle := t.pick d.rotationAngle u.rotationAngle 0
        stereoMode := t.pick d.stereoMode d.stereoMode .mono, interlace := t.pick d.interlace d.interlace false
        tilingMode := t.pick d.tilingMode u.tilingMode w.tilingMode
        orthogonalRotation := isOrthogonal (t.pick d.rotationAngle u.rotationAngle 0)
        scatterGatherEnable := t.pick d.scatterGatherEnable u.scatterGatherEnable false } := by
  unfold sourceGeometry
  cases k.surfaceType <;> rfl

theorem isOrthogonal_eq (angle : W64) : isOrthogonal angle = decide (angle = 90 ∨ angle = 270) := by
  rw [isOrthogonal, Bool.decide_or]; rfl

theorem isChroma_iff (t : SurfaceType) : t.isChroma = true ↔ t = .underlay420Chroma ∨ t = .writebackChroma := by
  cases t <;> simp [SurfaceType.isChroma]

/-- A length or ratio of a plane of this type, halved for a 420 chroma plane (R208). -/
def halvedIf (chroma : Bool) (v : W64) : Option W64 := if chroma then (Fx.div v (fx 2)).word? else some v

/-- A length or ratio, doubled if so asked (R210, R211). -/
def doubledIf (doubles : Bool) (v : W64) : Option W64 := if doubles then (Fx.mul v (fx 2)).word? else some v

theorem halveChroma_value (t : SurfaceType) (g : SurfGeometry) (c : CalcState) :
    ∃ width height hsr vsr, halvedIf t.isChroma g.sourceWidth = some width
      ∧ halvedIf t.isChroma g.sourceHeight = some height
      ∧ halvedIf t.isChroma g.hsr = some hsr ∧ halvedIf t.isChroma g.vsr = some vsr
      ∧ (halveChroma t g c).1 = { g with sourceWidth := width, sourceHeight := height, hsr := hsr, vsr := vsr } := by
  have halved : ∀ v c, (Fx.div v (fx 2)).word? = some (fxOp (Fx.div v (fx 2)) c).1 := fun v c =>
    fxOp_of_isSome (Fx.div_word?_isSome v (by decide)) c
  unfold halveChroma halvedIf
  by_cases chroma : t.isChroma = true
  · simp only [if_pos chroma, CalcM.bind_apply, CalcM.pure_apply]
    exact ⟨_, _, _, _, halved _ _, halved _ _, halved _ _, halved _ _, rfl⟩
  · simp only [if_neg chroma, CalcM.pure_apply]
    exact ⟨_, _, _, _, rfl, rfl, rfl, rfl, rfl⟩

theorem doubleStereo_value (g : SurfGeometry) (c : CalcState) :
    ∃ width height, some width = doubledIf (decide (g.stereoMode = .sideBySide)) g.sourceWidth
      ∧ some height = doubledIf (decide (g.stereoMode = .topBottom)) g.sourceHeight
      ∧ (doubleStereo g c).1 = { g with sourceWidth := width, sourceHeight := height } := by
  obtain ⟨_, _, _, _, _, _, _, stereo, _, _, _, _, _⟩ := g
  cases stereo with
  | mono => exact ⟨_, _, rfl, rfl, rfl⟩
  | sideBySide => exact ⟨_, _, (fxOp_mul _ _ c).symm, rfl, rfl⟩
  | topBottom => exact ⟨_, _, rfl, (fxOp_mul _ _ c).symm, rfl⟩

theorem doubleInterlaced_value (g : SurfGeometry) (c : CalcState) :
    ∃ vsr, some vsr = doubledIf g.interlace g.vsr ∧ (doubleInterlaced g c).1 = { g with vsr := vsr } := by
  unfold doubleInterlaced doubledIf
  by_cases interlaced : g.interlace = true
  · simp only [if_pos interlaced, CalcM.bind_apply, CalcM.pure_apply]
    exact ⟨_, (fxOp_mul _ _ c).symm, rfl⟩
  · simp only [if_neg interlaced, CalcM.pure_apply]
    exact ⟨_, rfl, rfl⟩

theorem chunkQuantum_ne_zero (p : Panning) : chunkQuantum p ≠ 0 := by cases p <;> decide

theorem roundToChunks_value (p : Panning) (g : SurfGeometry) (c : CalcState) :
    ∃ width, some width = (Fx.ceil g.sourceWidth (chunkQuantum p)).word?
      ∧ (roundToChunks p g c).1 = { g with widthRoundedUpToChunks := width } :=
  ⟨_, (fxOp_of_isSome (Fx.ceil_word?_isSome _ (chunkQuantum_ne_zero p)) c).symm, rfl⟩

/-! ## The rules in order -/

/-- `g` is what R208 to R212 make, in this order, of what a slot of this type copies. -/
structure Normalised (t : SurfaceType) (p : Panning) (source g : SurfGeometry) : Prop where
  copied : g = { source with
    sourceWidth := g.sourceWidth, sourceHeight := g.sourceHeight, hsr := g.hsr, vsr := g.vsr
    widthRoundedUpToChunks := g.widthRoundedUpToChunks }
  scaled : ∃ width height hsr vsr, halvedIf t.isChroma source.sourceWidth = some width
    ∧ halvedIf t.isChroma source.sourceHeight = some height
    ∧ halvedIf t.isChroma source.hsr = some hsr ∧ halvedIf t.isChroma source.vsr = some vsr
    ∧ let swap := t ≠ .graphics ∧ g.orthogonalRotation = true
      some g.sourceWidth = doubledIf (decide (g.stereoMode = .sideBySide)) (if swap then height else width)
        ∧ some g.sourceHeight = doubledIf (decide (g.stereoMode = .topBottom)) (if swap then width else height)
        ∧ g.hsr = (if swap then vsr else hsr)
        ∧ some g.vsr = doubledIf g.interlace (if swap then hsr else vsr)
  rounded : some g.widthRoundedUpToChunks = (Fx.ceil g.sourceWidth (chunkQuantum p)).word?

/-- The rotation swap as a choice field by field (R209). -/
theorem swapRotated_eq (t : SurfaceType) (g : SurfGeometry) :
    swapRotated t g =
      let swap := t ≠ .graphics ∧ g.orthogonalRotation = true
      { g with
        sourceWidth := if swap then g.sourceHeight else g.sourceWidth
        sourceHeight := if swap then g.sourceWidth else g.sourceHeight
        hsr := if swap then g.vsr else g.hsr
        vsr := if swap then g.hsr else g.vsr } := by
  unfold swapRotated
  dsimp only
  by_cases swap : t ≠ .graphics ∧ g.orthogonalRotation = true
  · simp only [if_pos swap]
  · simp only [if_neg swap]

theorem slotGeometry_normalised (env : CalcEnv) (k : SurfClass) (c : CalcState) :
    Normalised k.surfaceType env.mode.panning (sourceGeometry env k) (slotGeometry env k c).1 := by
  generalize source : sourceGeometry env k = src
  unfold slotGeometry
  simp only [CalcM.bind_apply, source]
  obtain ⟨width, height, hsr, vsr, hw, hh, hhs, hvs, halved⟩ := halveChroma_value k.surfaceType src c
  generalize (halveChroma k.surfaceType src c).2 = c₁
  rw [halved, swapRotated_eq]
  dsimp only
  generalize swapped : SurfGeometry.mk _ _ _ _ _ _ _ _ _ _ _ _ _ = g₁
  obtain ⟨width', height', hw', hh', stereo⟩ := doubleStereo_value g₁ c₁
  generalize (doubleStereo g₁ c₁).2 = c₂
  rw [stereo]
  generalize doubled : SurfGeometry.mk _ _ _ _ _ _ _ _ _ _ _ _ _ = g₂
  obtain ⟨vsr', hv', interlaced⟩ := doubleInterlaced_value g₂ c₂
  generalize (doubleInterlaced g₂ c₂).2 = c₃
  rw [interlaced]
  obtain ⟨rounded, hr, chunks⟩ := roundToChunks_value env.mode.panning { g₂ with vsr := vsr' } c₃
  rw [chunks]
  subst doubled swapped
  exact ⟨rfl, ⟨width, height, hsr, vsr, hw, hh, hhs, hvs, hw', hh', rfl, hv'⟩, hr⟩

/-! ## Stage 2 -/

/-- Stage 2 is a loop whose body gives its slot the geometry of the slot's role and leaves the other slots. -/
theorem stage2_eq_forEnabled (env : CalcEnv) :
    ∃ f, stage2 env = forEnabled f ∧ (∀ i j : Slot, j ≠ i → Keeps (slotView j) (f i))
      ∧ ∀ i c, ∃ c', (slotView i (f i c).2.results).geo = (slotGeometry env (slotView i c.results).cls c').1 := by
  refine ⟨_, rfl, fun i j hj => ?own, fun i c => ⟨c, ?body⟩⟩
  case own =>
    exact Keeps.bind (Keeps.getSurface i) fun _ => Keeps.bind (slotGeometry_keeps env _) fun _ =>
      Keeps.changeSurface fun r => slotView_set_other j i r _ hj
  case body => simp only [CalcM.bind_apply, getSurface_eq_slotView, slotView_changeSurface_self]

theorem stage2_geometry (env : CalcEnv) (c : CalcState) (i : Slot) (enabled : (slotView i c.results).cls.enable = true) :
    ∃ c', (slotView i (stage2 env c).2.results).geo = (slotGeometry env (slotView i c.results).cls c').1 := by
  obtain ⟨f, loop, own, body⟩ := stage2_eq_forEnabled env
  obtain ⟨c', same, after⟩ := forEnabled_surface own i c enabled
  rw [loop, after, ← same]
  exact body i c'

/-- The geometry of an enabled slot in the finished RESULTS. -/
theorem resultsOf_geometry (env : CalcEnv) (draws : Nat) (i : Slot)
    (enabled : (slotView i (resultsOf env draws)).cls.enable = true) :
    Normalised (slotView i (resultsOf env draws)).cls.surfaceType env.mode.panning
      (sourceGeometry env (slotView i (resultsOf env draws)).cls) (slotView i (resultsOf env draws)).geo := by
  have slot := slotView_upTo_eq (resultsOf_upTo2 env draws (k := 2) (by omega)) i
  rw [resultsOf_cls, ← afterStage1_cls env draws] at enabled ⊢
  obtain ⟨c', geometry⟩ := stage2_geometry env (afterStage1 env draws) i enabled
  rw [Surface.geo_eq_of_upTo slot le_rfl, afterStage2_eq, geometry]
  exact slotGeometry_normalised env _ c'

end Sys2Proof.Machine

namespace Sys2Proof

open Machine

/-- Settles O43: R208 to R211 in order on what the role of the slot copies. -/
theorem slotGeometry : Obligations.SlotGeometry := by
  intro env draws i sf
  have geometry := resultsOf_geometry env draws i
  rw [show slotView i (resultsOf env draws) = sf from rfl] at geometry
  clear_value sf
  intro kind d u w chroma half doubleIf enabled
  obtain ⟨copied, scaled, -⟩ := geometry enabled
  have orthogonal : sf.geo.orthogonalRotation = isOrthogonal sf.geo.rotationAngle := by rw [copied, sourceGeometry_eq]
  rw [sourceGeometry_eq] at copied scaled
  have two : fx 2 = 0x2000000 := by decide
  refine ⟨congrArg SurfGeometry.hTaps copied, congrArg SurfGeometry.vTaps copied,
    congrArg SurfGeometry.rotationAngle copied, congrArg SurfGeometry.stereoMode copied,
    congrArg SurfGeometry.interlace copied, congrArg SurfGeometry.tilingMode copied,
    congrArg SurfGeometry.scatterGatherEnable copied, orthogonal.trans (isOrthogonal_eq _), ?_⟩
  simpa only [halvedIf, doubledIf, isChroma_iff, two] using scaled

end Sys2Proof
end

section
/-!
CEIL to a positive quantum (41_fxu_rounding.md R141), and the chunk rounding of stage 2 (45_bwe_calculate.md R212).
-/

namespace Sys2Proof.Machine

theorem Fx.mag_of_pos {a : W64} (h : 0 < a.toInt) : (Fx.mag a : Int) = a.toInt := by rw [Fx.mag]; omega

/-- The multiple of a positive quantum that FLOOR takes of a positive word. -/
theorem Fx.towardZero_toInt {w q : W64} (hq : 0 < q.toInt) (hw : 0 < w.toInt) :
    (Fx.towardZero w (Fx.mag q)).toInt = q.toInt * (w.toInt / q.toInt) := by
  have below : q.toInt * (w.toInt / q.toInt) ≤ w.toInt := Int.mul_ediv_self_le hq.ne'
  have nonneg : 0 ≤ q.toInt * (w.toInt / q.toInt) := Int.mul_nonneg hq.le (Int.ediv_nonneg hw.le hq.le)
  have := BitVec.toInt_lt (x := w)
  rw [Fx.towardZero, Fx.multiples, Fx.mag_of_pos hq, Fx.wrap_toInt, Int.tdiv_eq_ediv_of_nonneg hw.le]
  exact Fx.toInt_wrap_of_fits _ (decide_eq_true (by omega))

theorem Fx.narrow_eq_exact_iff {v : Int} {r : W64} (h : Fx.narrow v = .exact r) : r.toInt = v := by
  unfold Fx.narrow Fx.withOv at h
  split at h
  · cases h
  next fits =>
    rw [FxResult.exact.injEq] at h
    rw [← h]
    exact Fx.toInt_wrap_of_fits v (by simpa using fits)

/-- CEIL of a positive word to a positive quantum, where it does not overflow, is the next multiple of the quantum. -/
theorem Fx.ceil_spec_of_pos {w q r : W64} (hq : 0 < q.toInt) (hw : 0 < w.toInt) (h : Fx.ceil w q = .exact r) :
    w.toInt ≤ r.toInt ∧ r.toInt < w.toInt + q.toInt ∧ q.toInt ∣ r.toInt := by
  have q_ne : q ≠ 0 := by rintro rfl; exact absurd hq (by decide)
  have floored := Fx.towardZero_toInt hq hw
  have nonneg : 0 ≤ q.toInt * (w.toInt / q.toInt) := Int.mul_nonneg hq.le (Int.ediv_nonneg hw.le hq.le)
  have below : q.toInt * (w.toInt / q.toInt) ≤ w.toInt := Int.mul_ediv_self_le hq.ne'
  have above : w.toInt < q.toInt * (w.toInt / q.toInt) + q.toInt := Int.lt_mul_ediv_self_add hq
  rw [Fx.ceil, if_neg q_ne] at h
  dsimp only at h
  generalize Fx.towardZero w (Fx.mag q) = f at h floored
  have mag_f : (Fx.mag f : Int) = f.toInt := by rw [Fx.mag]; omega
  have mag_w := Fx.mag_of_pos hw
  split at h
  next step =>
    have stepped : r.toInt = f.toInt + q.toInt := by
      rw [Fx.narrow_eq_exact_iff h, Fx.stepAway, if_neg (by omega), Fx.mag_of_pos hq]
    rw [stepped, floored]
    exact ⟨by omega, by omega, (Int.dvd_mul_right _ _).add (Int.dvd_refl _)⟩
  next exact_multiple =>
    rw [FxResult.exact.injEq] at h
    rw [← h, floored]
    exact ⟨by omega, by omega, Int.dvd_mul_right _ _⟩

/-- CEIL of positive words to a positive quantum does not decrease. -/
theorem Fx.ceil_mono_of_pos {w w' q r r' : W64} (hq : 0 < q.toInt) (hw : 0 < w.toInt) (hww : w.toInt ≤ w'.toInt)
    (h : Fx.ceil w q = .exact r) (h' : Fx.ceil w' q = .exact r') : r.toInt ≤ r'.toInt := by
  obtain ⟨-, near, ⟨a, ha⟩⟩ := Fx.ceil_spec_of_pos hq hw h
  obtain ⟨above, -, ⟨b, hb⟩⟩ := Fx.ceil_spec_of_pos hq (by omega) h'
  have less : q.toInt * a < q.toInt * (b + 1) := by rw [Int.mul_add]; omega
  have le : a ≤ b := Int.lt_add_one_iff.1 (Int.lt_of_mul_lt_mul_left less hq.le)
  rw [ha, hb]
  exact Int.mul_le_mul_of_nonneg_left le hq.le

theorem chunkQuantum_eq (p : Panning) : chunkQuantum p = if p ≠ .none then 0x80000000 else 0x100000000 := by
  cases p <;> decide

end Sys2Proof.Machine

namespace Sys2Proof

open Machine

/-- Settles O44: the last step of stage 2, and CEIL to a positive quantum. -/
theorem chunkRounding : Obligations.ChunkRounding := by
  refine ⟨?rounded, fun q w w' r r' hq hw hww h h' => ?next⟩
  case rounded =>
    intro env draws i sf
    have geometry := resultsOf_geometry env draws i
    rw [show slotView i (resultsOf env draws) = sf from rfl] at geometry
    clear_value sf
    intro enabled
    rw [(geometry enabled).rounded, chunkQuantum_eq]
  case next =>
    have q_pos : 0 < q.toInt := by rcases hq with rfl | rfl <;> decide
    exact ⟨Fx.ceil_mono_of_pos q_pos hw hww h h', Fx.ceil_spec_of_pos q_pos hw h⟩

end Sys2Proof
end

section
/-!
The pipe counts, the pipe check and the mode check in the finished RESULTS (45_bwe_calculate.md R213, R218).
-/

namespace Sys2Proof.Machine

/-- The three counts of R213 and the pipe check. -/
def pipeView (r : Results) : Nat × Nat × Nat × CheckResult :=
  (r.numberOfEnabledGraphics, r.numberOfEnabledUnderlay, r.numberOfEnabledWriteback, r.pipeCheck)

/-- Stage 3 leaves the counts and the pipe check that it makes first. -/
theorem stage3_pipeView (env : CalcEnv) (c : CalcState) :
    pipeView (stage3 env c).2.results = pipeView (checkPipes env.dceip c.results) := by
  obtain ⟨ratios, lineBuffer, fbc, rotation⟩ := stage3Loops_keep (g := pipeView) env (fun _ _ => rfl)
    (fun _ _ _ _ => rfl) (fun _ _ _ _ _ _ => rfl)
  have mode : ∀ r, pipeView (checkMode r) = pipeView r := fun _ => rfl
  unfold stage3
  simp only [CalcM.bind_apply, changeResults_apply]
  rw [mode, rotation, fbc, lineBuffer, ratios]

/-- Stage 3 ends with the mode check over the six checks it leaves. -/
theorem stage3_modeCheck (env : CalcEnv) (c : CalcState) :
    (stage3 env c).2.results.modeCheck = (checkMode (stage3 env c).2.results).modeCheck := by
  have last : ∀ r, (checkMode r).modeCheck = (checkMode (checkMode r)).modeCheck := fun _ => rfl
  unfold stage3
  simp only [CalcM.bind_apply, changeResults_apply]
  exact last _

theorem withinPipes_iff (count : Nat) (limit : W64) : withinPipes count limit = true ↔ (count : Int) ≤ limit.toInt :=
  decide_eq_true_iff

theorem checkPipes_pipeCheck (d : Dceip) (r : Results) :
    (checkPipes d r).pipeCheck =
      if ((checkPipes d r).numberOfEnabledGraphics : Int) ≤ d.numberOfGraphicsPipes.toInt
        ∧ ((checkPipes d r).numberOfEnabledUnderlay : Int) ≤ d.numberOfUnderlayPipes.toInt
        ∧ ((checkPipes d r).numberOfEnabledWriteback : Int) ≤ d.numberOfWritebackPipes.toInt then .ok else .notok := by
  simp only [checkPipes, Bool.and_eq_true, withinPipes_iff, and_assoc]

/-- The counts are those of the slots whose class is enabled, which the finished RESULTS still shows. -/
theorem countEnabled_congr {r r' : Results} (h : ∀ i, (slotView i r).cls = (slotView i r').cls) (slots : List Slot) :
    r.countEnabled slots = r'.countEnabled slots := by
  have enabled : r.enabled = r'.enabled := by
    funext i
    simp only [Results.enabled, surface_eq_slotView, h]
  rw [Results.countEnabled, Results.countEnabled, enabled]

theorem pipeView_checkPipes_congr (d : Dceip) {r r' : Results} (h : ∀ i, (slotView i r).cls = (slotView i r').cls) :
    pipeView (checkPipes d r) = pipeView (checkPipes d r') := by
  unfold pipeView checkPipes
  simp only [countEnabled_congr h]

theorem resultsOf_pipeView (env : CalcEnv) (draws : Nat) :
    pipeView (resultsOf env draws) = pipeView (checkPipes env.dceip (resultsOf env draws)) := by
  have view : ∀ r, pipeView (r.upTo 3) = pipeView r := fun _ => rfl
  have classes : ∀ i : Slot, (slotView i (resultsOf env draws)).cls = (slotView i (afterStage2 env draws).results).cls :=
    fun i => Surface.cls_eq_of_upTo (slotView_upTo_eq (resultsOf_upTo2 env draws (k := 1) (by omega)) i) le_rfl
  rw [← view, resultsOf_upTo3 env draws (by omega), view, afterStage3, stage3_pipeView,
    pipeView_checkPipes_congr env.dceip classes]

theorem resultsOf_modeCheck (env : CalcEnv) (draws : Nat) :
    (resultsOf env draws).modeCheck = (checkMode (resultsOf env draws)).modeCheck := by
  have view : ∀ r : Results, (r.upTo 3).modeCheck = r.modeCheck := fun _ => rfl
  have check : ∀ r : Results, (checkMode (r.upTo 3)).modeCheck = (checkMode r).modeCheck := fun _ => rfl
  rw [← view, ← check, resultsOf_upTo3 env draws (by omega), view, check, afterStage3, stage3_modeCheck]

end Sys2Proof.Machine

namespace Sys2Proof

open Machine

/-- Settles O45: stage 3 counts and checks the slots that stage 1 enabled, and no later stage touches what it leaves. -/
theorem pipeAndModeChecks : Obligations.PipeAndModeChecks := by
  intro env draws
  have pipes := resultsOf_pipeView env draws
  have mode := resultsOf_modeCheck env draws
  generalize resultsOf env draws = r at pipes mode
  simp only [pipeView, Prod.mk.injEq] at pipes
  obtain ⟨graphics, underlay, writeback, check⟩ := pipes
  rw [checkPipes_pipeCheck, ← graphics, ← underlay, ← writeback] at check
  exact ⟨graphics, underlay, writeback, check, mode⟩

end Sys2Proof
end

section
/-!
Stage 5 in the finished RESULTS (45_bwe_calculate.md R220, R221), and a search through a list in rising order.
-/

namespace Sys2Proof.Machine

/-! ## The first that fits, in a list in rising order -/

theorem find?_least {α : Type} {rising : α → α → Prop} {l : List α} {p : α → Bool} {b : α} (refl : ∀ a, rising a a)
    (sorted : l.Pairwise rising) (h : l.find? p = some b) :
    b ∈ l ∧ p b = true ∧ ∀ a ∈ l, p a = true → rising b a := by
  refine ⟨List.mem_of_find?_eq_some h, List.find?_some h, ?_⟩
  induction l with
  | nil => cases h
  | cons x l ih =>
    rw [List.pairwise_cons] at sorted
    intro a ha pa
    by_cases px : p x = true
    · rw [List.find?_cons_of_pos px, Option.some.injEq] at h
      subst h
      rcases List.mem_cons.1 ha with rfl | ha
      · exact refl _
      · exact sorted.1 a ha
    · rw [List.find?_cons_of_neg px] at h
      rcases List.mem_cons.1 ha with rfl | ha
      · exact absurd pa px
      · exact ih sorted.2 h a ha pa

/-! ## The set of R221 -/

/-- The words to which vsr is snapped up (R221). -/
def lineSteps : List W64 := [0x1000000, 0x1555555, 0x1800000, 0x2000000, 0x3000000, 0x4000000]

theorem lineSteps_eq : lineSteps = [fx 1, fourThirds, threeHalves, fx 2, fx 3, fx 4] := by
  have integers : fx 1 = 0x1000000 ∧ fx 2 = 0x2000000 ∧ fx 3 = 0x3000000 ∧ fx 4 = 0x4000000 := by decide
  obtain ⟨one, two, three, four⟩ := integers
  rw [one, two, three, four]
  rfl

theorem lineSteps_sorted : lineSteps.Pairwise fun a b => a.toInt ≤ b.toInt := by
  simp [lineSteps]

theorem lineSteps_le_four : ∀ x ∈ lineSteps, x.toInt ≤ 0x4000000 := by
  simp [lineSteps]

theorem snapLines_eq (v : W64) : snapLines v = (lineSteps.find? fun x => Fx.le v x).getD 0x4000000 := by
  have four : fx 4 = 0x4000000 := by decide
  rw [lineSteps_eq, snapLines, ← four]
  simp only [List.find?_cons, List.find?_nil]
  split_ifs <;> simp only [*, Option.getD_some]
  cases Fx.le v 0x4000000 <;> rfl

theorem snapLines_of_above {v : W64} (h : 0x4000000 < v.toInt) : snapLines v = 0x4000000 := by
  have none : lineSteps.find? (fun x => Fx.le v x) = none := by
    rw [List.find?_eq_none]
    intro x hx
    have := lineSteps_le_four x hx
    rw [Fx.le_iff]
    omega
  rw [snapLines_eq, none]
  rfl

theorem snapLines_of_le {v : W64} (h : v.toInt ≤ 0x4000000) :
    snapLines v ∈ lineSteps ∧ v.toInt ≤ (snapLines v).toInt
      ∧ ∀ x ∈ lineSteps, v.toInt ≤ x.toInt → (snapLines v).toInt ≤ x.toInt := by
  have found : (lineSteps.find? fun x => Fx.le v x).isSome = true := by
    rw [List.find?_isSome]
    exact ⟨0x4000000, by decide, (Fx.le_iff v _).2 h⟩
  obtain ⟨b, hb⟩ := Option.isSome_iff_exists.1 found
  obtain ⟨mem, fits, least⟩ := find?_least (rising := fun a b => a.toInt ≤ b.toInt) (fun _ => le_rfl) lineSteps_sorted hb
  rw [snapLines_eq, hb, Option.getD_some]
  exact ⟨mem, (Fx.le_iff v b).1 fits, fun x hx hvx => least x hx ((Fx.le_iff v x).2 hvx)⟩

theorem snapLines_mem (v : W64) : snapLines v ∈ lineSteps := by
  rcases lt_or_ge 0x4000000 v.toInt with above | le
  · rw [snapLines_of_above above]; decide
  · exact (snapLines_of_le le).1

/-! ## Stage 5 -/

theorem clampFilterInit_eq (m : StereoMode) (f : W64) :
    clampFilterInit m f = if m = .topBottom ∧ 0x4000000 < f.toInt then 0x4000000 else f := by
  have four : fx Config.topBottomFilterInitClamp = 0x4000000 := by decide
  have four_toInt : (0x4000000 : W64).toInt = 0x4000000 := by decide
  rw [clampFilterInit, four, Fx.min_eq, four_toInt]
  by_cases clamped : m = .topBottom
  · simp only [clamped, true_and, if_true]
  · simp only [clamped, false_and, if_false]

theorem prefetchEligible_eq (p : Panning) (s : Surface) :
    prefetchEligible p s = !((decide (s.cls.surfaceType = .graphics)
      && (decide (0x1000000 < s.geo.hsr.toInt) || decide (0x1000000 < s.geo.vsr.toInt))) || decide (p = .oddLines)) := by
  have one : (fx 1).toInt = 0x1000000 := by decide
  rw [prefetchEligible, Fx.gt, Fx.gt, one]
  rfl

/-- What stage 5 leaves in an enabled slot, R220 to R222. -/
structure PeakBandwidth (env : CalcEnv) (i : Slot) (s : Surface) : Prop where
  filter : ∃ f, Answers env (fun x => env.params.stage.vFilterInit x i
      { vTaps := s.geo.vTaps, vsr := s.geo.vsr, interlace := s.geo.interlace }) f
    ∧ s.bw.vFilterInit = clampFilterInit s.geo.stereoMode f
  eligible : s.bw.lbPrefetchEligible = prefetchEligible env.mode.panning s
  beginning : Answers env (fun x => env.params.stage.linesInPerLineOutBeginning x i
      { vsr := s.geo.vsr, vFilterInit := s.bw.vFilterInit, lbPrefetchEligible := s.bw.lbPrefetchEligible })
    s.bw.linesInPerLineOutBeginning
  middle : s.bw.linesInPerLineOutMiddle = linesMiddle s.bw.lbPrefetchEligible s.geo.vsr
  request : Answers env (fun x => env.params.stage.requestBandwidth x i
      { widthRoundedUpToChunks := s.geo.widthRoundedUpToChunks
        linesInPerLineOutBeginning := s.bw.linesInPerLineOutBeginning
        linesInPerLineOutMiddle := s.bw.linesInPerLineOutMiddle
        bytesPerRequest := s.req.bytesPerRequest, usefulBytesPerRequest := s.req.usefulBytesPerRequest
        hsr := s.geo.hsr, bytesPerPixel := s.cls.bytesPerPixel
        pixelRate := (env.mode.display s.cls.displayIndex).pixelRate
        hTotal := (env.mode.display s.cls.displayIndex).hTotal }) s.bw.requestBandwidth
  display : some s.bw.displayBandwidth = (Fx.mul s.bw.requestBandwidth s.req.bytesPerRequest).word?

theorem PeakBandwidth.upTo_iff {env : CalcEnv} {i : Slot} {s : Surface} :
    PeakBandwidth env i (s.upTo 5) ↔ PeakBandwidth env i s := ⟨fun h => { h with }, fun h => { h with }⟩

/-- Stage 5 is a loop whose body makes R220 to R222 for its slot and leaves the other slots. -/
theorem stage5_eq_forEnabled (env : CalcEnv) :
    ∃ f, stage5 env = forEnabled f ∧ (∀ i j : Slot, j ≠ i → Keeps (slotView j) (f i))
      ∧ ∀ i c, PeakBandwidth env i (slotView i (f i c).2.results) := by
  refine ⟨_, rfl, fun i j hj => ?own, fun i c => ?body⟩
  case own =>
    exact Keeps.bind (Keeps.getSurface i) fun _ => Keeps.bind (Keeps.callStage _ _ (slotView_ignoresExt j)) fun _ =>
      Keeps.bind (Keeps.callStage _ _ (slotView_ignoresExt j)) fun _ =>
      Keeps.bind (Keeps.callStage _ _ (slotView_ignoresExt j)) fun _ => Keeps.bind (Keeps.fxOp _) fun _ =>
      Keeps.changeSurface fun r => slotView_set_other j i r _ hj
  case body =>
    simp only [CalcM.bind_apply, getSurface_eq_slotView, slotView_changeSurface_self, fxOp_results, slotView_callStage]
    exact ⟨⟨_, callStage_answers _ _ _, rfl⟩, rfl, callStage_answers _ _ _, rfl, callStage_answers _ _ _,
      (fxOp_mul _ _ _).symm⟩

theorem stage5_peakBandwidth (env : CalcEnv) (c : CalcState) (i : Slot)
    (enabled : (slotView i c.results).cls.enable = true) : PeakBandwidth env i (slotView i (stage5 env c).2.results) := by
  obtain ⟨f, loop, own, body⟩ := stage5_eq_forEnabled env
  obtain ⟨c', -, after⟩ := forEnabled_surface own i c enabled
  rw [loop, after]
  exact body i c'

/-- The bandwidth fields of an enabled slot in the finished RESULTS. -/
theorem resultsOf_peakBandwidth (env : CalcEnv) (draws : Nat) (i : Slot)
    (enabled : (slotView i (resultsOf env draws)).cls.enable = true) :
    PeakBandwidth env i (slotView i (resultsOf env draws)) := by
  have before := slotView_upTo_eq (resultsOf_upTo4 env draws (k := 1) (by omega)) i
  have after := slotView_upTo_eq (resultsOf_upTo5 env draws (k := 5) (by omega)) i
  rw [Surface.cls_eq_of_upTo before le_rfl] at enabled
  rw [← PeakBandwidth.upTo_iff, after, PeakBandwidth.upTo_iff, afterStage5]
  exact stage5_peakBandwidth env _ i enabled

end Sys2Proof.Machine

namespace Sys2Proof

open Machine

/-- Settles O48: what stage 5 leaves in the slot, its middle value by the search through the set of R221. -/
theorem linesInPerLineOut : Obligations.LinesInPerLineOut := by
  intro env draws i sf
  have peak := resultsOf_peakBandwidth env draws i
  rw [show slotView i (resultsOf env draws) = sf from rfl] at peak
  clear_value sf
  intro steps enabled
  obtain ⟨⟨f, answers, clamped⟩, eligible, beginning, middle, -, -⟩ := peak enabled
  refine ⟨eligible.trans (prefetchEligible_eq _ _), ⟨f, answers, clamped.trans (clampFilterInit_eq _ _)⟩, beginning,
    fun prefetches => ?prefetches, fun snaps => ?snaps⟩
  case prefetches => rw [middle, prefetches, linesMiddle, if_pos rfl]
  case snaps =>
    rw [middle, snaps, linesMiddle, if_neg Bool.false_ne_true]
    exact ⟨snapLines_mem _, fun le => (snapLines_of_le le).2, snapLines_of_above⟩

end Sys2Proof
end

section
/-!
Stage 7 in the finished RESULTS (45_bwe_calculate.md R224), with the display bandwidths of stage 5 (R222).
-/

namespace Sys2Proof.Machine

theorem PerTier.get_map {α β : Type} (f : α → β) (p : PerTier α) (t : Tier) : (p.map f).get t = f (p.get t) := by
  cases t <;> rfl

/-- What is available at a tier is what the two formulas answer (R224). -/
theorem availableAt_finds (env : CalcEnv) (reads : Config.TotalReads) (r : Results) (t : Tier) :
    Finds r (availableAt env reads t) fun p =>
      Answers env (fun x => env.params.stage.availableDramBandwidth x reads (env.vbios.yclk.get t)) p.1
        ∧ Answers env (fun x => env.params.stage.availableSclkBandwidth x reads (env.vbios.sclk.get t)) p.2 :=
  Finds.bind (Finds.callStage _ _) fun _ dram => Finds.bind (Finds.callStage _ _) fun _ sclk => Finds.pure ⟨dram, sclk⟩

/-- What stage 7 leaves in RESULTS, R224, for what its formulas read and the display bandwidths of the slots that are, or are
not, write-back. -/
structure Totalled (env : CalcEnv) (reads : Config.TotalReads) (bandwidths : Bool → List W64) (r : Results) : Prop where
  dmifDram : ∃ overhead, Answers env (fun x => env.params.stage.cursorAndPteDramOverhead x reads) overhead
    ∧ r.totalDmifDramBandwidth = wrappedSum (bandwidths false) + overhead
  mcifwrDram : r.totalMcifwrDramBandwidth = wrappedSum (bandwidths true)
  dmifSclk : Answers env (fun x => env.params.stage.dmifSclkBandwidth x reads) r.totalDmifSclkBandwidth
  mcifwrSclk : Answers env (fun x => env.params.stage.mcifwrSclkBandwidth x reads) r.totalMcifwrSclkBandwidth
  gbyte : Answers env (fun x => env.params.stage.toGbytePerSecond x reads r.totalDram) r.requiredDramBandwidthGbytePerSecond
  available : ∀ t : Tier,
    Answers env (fun x => env.params.stage.availableDramBandwidth x reads (env.vbios.yclk.get t))
        (r.availableDramBandwidth.get t)
      ∧ Answers env (fun x => env.params.stage.availableSclkBandwidth x reads (env.vbios.sclk.get t))
        (r.availableSclkBandwidth.get t)
  page : ∃ ok, Answers env (fun x => env.params.stage.pageCloseOpenOk x reads) ok
    ∧ r.pageCloseOpenCheck = if ok ≠ 0 then .ok else .exceededPageCloseOpen
  maximum : r.maximumBwCheck
    = if r.availableDramBandwidth.high.toInt < r.totalDram.toInt ∨ r.availableSclkBandwidth.high.toInt < r.totalSclk.toInt
      then .exceededMaximumBw else .ok

theorem Totalled.upTo_iff {env : CalcEnv} {reads : Config.TotalReads} {bandwidths : Bool → List W64} {r : Results} :
    Totalled env reads bandwidths (r.upTo 7) ↔ Totalled env reads bandwidths r :=
  ⟨fun h => { h with }, fun h => { h with }⟩

/-- Stage 7 makes its totals of the surfaces it finds, and hands stage 9 the two that are compared with what is available. -/
theorem stage7_ensures (env : CalcEnv) (r : Results) :
    Ensures r (stage7 env) fun totals r' =>
      Totalled env (totalReads env r) r.displayBandwidths r' ∧ totals = ⟨r'.totalDram, r'.totalSclk⟩ := by
  unfold stage7
  refine Ensures.bind Finds.getResults ?_
  rintro _ ⟨e, rfl⟩
  refine Ensures.bind (Finds.sumWords _) ?_
  rintro _ rfl
  refine Ensures.bind (Finds.callStage _ _) fun overhead answersOverhead => Ensures.bind (Finds.fxOp_add _ _) ?_
  rintro _ rfl
  refine Ensures.bind (Finds.sumWords _) ?_
  rintro _ rfl
  refine Ensures.bind (Finds.callStage _ _) fun dmifSclk answersDmif => Ensures.bind (Finds.callStage _ _)
    fun mcifwrSclk answersMcifwr => Ensures.bind (Finds.fxOp_add _ _) ?_
  rintro _ rfl
  refine Ensures.bind (Finds.callStage _ _) fun gbyte answersGbyte =>
    Ensures.bind (Finds.forTiers fun t => availableAt_finds env _ r t) fun available answersAvailable =>
    Ensures.bind (Finds.callStage _ _) fun pageOk answersPage => Ensures.bind (Finds.fxOp_add _ _) ?_
  rintro _ rfl
  refine Ensures.changeResults_pure fun e' => ⟨⟨⟨overhead, answersOverhead, rfl⟩, rfl, answersDmif, answersMcifwr,
    answersGbyte, fun t => ?available, ⟨pageOk, answersPage, ?page⟩, ?maximum⟩, rfl⟩
  case available =>
    dsimp only
    rw [PerTier.get_map, PerTier.get_map]
    exact answersAvailable t
  case page => simp only [boolOfWord, bne_iff_ne]
  case maximum =>
    simp only [Bool.or_eq_true, Fx.gt_iff]
    rfl

/-! ## The finished RESULTS -/

theorem resultsOf_core_afterStage6 (env : CalcEnv) (draws : Nat) (i : Slot) :
    (slotView i (resultsOf env draws)).toSurfaceCore = (slotView i (afterStage6 env draws).results).toSurfaceCore :=
  Surface.core_eq_of_upTo (slotView_upTo_eq (resultsOf_upTo6 env draws (k := 6) (by omega)) i) le_rfl

theorem totalReads_congr (env : CalcEnv) {r r' : Results}
    (core : ∀ i, (slotView i r).toSurfaceCore = (slotView i r').toSurfaceCore) : totalReads env r = totalReads env r' := by
  have cls : ∀ i, (slotView i r).cls = (slotView i r').cls := fun i => congrArg SurfaceCore.cls (core i)
  rw [totalReads, totalReads, enabledViews_congr cls core]

theorem displayBandwidths_congr {r r' : Results}
    (core : ∀ i, (slotView i r).toSurfaceCore = (slotView i r').toSurfaceCore) :
    r.displayBandwidths = r'.displayBandwidths := by
  have cls : ∀ i, (slotView i r).cls = (slotView i r').cls := fun i => congrArg SurfaceCore.cls (core i)
  have view : ∀ i, ((slotView i r).cls.surfaceType.isWriteback, (slotView i r).bw.displayBandwidth)
      = ((slotView i r').cls.surfaceType.isWriteback, (slotView i r').bw.displayBandwidth) := fun i => by rw [core]
  funext writeback
  rw [Results.displayBandwidths, Results.displayBandwidths,
    enabledViews_congr (view := fun s => (s.cls.surfaceType.isWriteback, s.bw.displayBandwidth)) cls view]

theorem displayBandwidths_eq (r : Results) (writeback : Bool) :
    r.displayBandwidths writeback
      = (r.enabledSurfaces.filter fun sf => sf.cls.surfaceType.isWriteback == writeback).map
        fun sf => sf.bw.displayBandwidth := by
  have enabled : r.enabledSurfaces = (allSlots.filter r.enabled).map fun i => r.surfaces[i] := rfl
  rw [enabled, Results.displayBandwidths, Results.enabledViews, List.filter_map, List.filter_map, List.map_map, List.map_map]
  rfl

theorem resultsOf_totalled (env : CalcEnv) (draws : Nat) :
    Totalled env (totalReads env (resultsOf env draws)) (resultsOf env draws).displayBandwidths (resultsOf env draws) := by
  have core := resultsOf_core_afterStage6 env draws
  rw [totalReads_congr env core, displayBandwidths_congr core, ← Totalled.upTo_iff, resultsOf_upTo7 env draws (by omega),
    Totalled.upTo_iff, afterStage7]
  exact ((stage7_ensures env _).run (afterStage6 env draws)).1

end Sys2Proof.Machine

namespace Sys2Proof

open Machine

/-- Settles O49: the bandwidths that stage 5 leaves in the slots, and what stage 7 makes of them. -/
theorem bandwidthTotals : Obligations.BandwidthTotals := by
  intro env draws r
  have peak := resultsOf_peakBandwidth env draws
  have totals := resultsOf_totalled env draws
  rw [show resultsOf env draws = r from rfl] at totals
  simp only [show resultsOf env draws = r from rfl] at peak
  clear_value r
  intro f reads bandwidths
  have sums : bandwidths = r.displayBandwidths := funext fun writeback => (displayBandwidths_eq r writeback).symm
  rw [sums]
  exact ⟨fun i enabled => ⟨(peak i enabled).request, (peak i enabled).display⟩, totals.dmifDram, totals.mcifwrDram,
    totals.dmifSclk, totals.mcifwrSclk, totals.gbyte, totals.available, totals.page, totals.maximum⟩

end Sys2Proof
end

section
/-!
Stage 8 in the finished RESULTS (45_bwe_calculate.md R225), and where its grid stands in RESULTS (10_state.md R35).
-/

namespace Sys2Proof.Machine

theorem capabilityLatency_eq (v : Vbios) (X : Capability) : capabilityLatency v X = latencyOf v X := by cases X <;> rfl

theorem GridCell.feasible_iff (v : Vbios) (cell : GridCell) :
    cell.feasible v = true ↔ 0 ≤ cell.margin.toInt ∧ cell.dispclkRequired.toInt ≤ v.maxDispclk.high.toInt := by
  have zero : (0 : W64).toInt = 0 := by decide
  rw [GridCell.feasible, Bool.and_eq_true, Fx.ge_iff, Fx.le_iff, zero]

/-! ## The grid -/

/-- A cell of the grid for what the formulas read at its tier pair (R225). -/
def CellAnswers (env : CalcEnv) (X : Capability) (y s : Tier) (reads : Config.GridReads) (cell : GridCell) : Prop :=
  (∃ slack burst, Answers env (fun x => env.params.stage.hidingTime x X y s reads) slack
    ∧ Answers env (fun x => env.params.stage.burstTime x y s reads) burst
    ∧ cell.margin = slack - latencyOf env.vbios X - burst)
  ∧ Answers env (fun x => env.params.stage.stateChangeDispclk x X y s reads) cell.dispclkRequired

theorem burstTime_finds (env : CalcEnv) (r : Results) (y s : Tier) :
    Finds r (burstTime env y s) (Answers env fun x => env.params.stage.burstTime x y s (gridReads env r y s)) := by
  refine Finds.bind Finds.getResults ?_
  rintro _ ⟨e, rfl⟩
  exact Finds.callStage _ _

theorem gridCell_finds (env : CalcEnv) (r : Results) (X : Capability) (y s : Tier) :
    Finds r (gridCell env X y s) (CellAnswers env X y s (gridReads env r y s)) := by
  refine Finds.bind Finds.getResults ?_
  rintro _ ⟨e, rfl⟩
  refine Finds.bind (Finds.callStage _ _) fun slack answersSlack => Finds.bind (Finds.fxOp_sub _ _) ?_
  rintro _ rfl
  refine Finds.bind (burstTime_finds env r y s) fun burst answersBurst => Finds.bind (Finds.fxOp_sub _ _) ?_
  rintro _ rfl
  refine Finds.bind (Finds.callStage _ _) fun dispclk answersDispclk =>
    Finds.pure ⟨⟨slack, burst, answersSlack, answersBurst, ?_⟩, answersDispclk⟩
  rw [capabilityLatency_eq]

theorem capabilityGrid_finds (env : CalcEnv) (r : Results) (X : Capability) :
    Finds r (capabilityGrid env X) fun grid => ∀ y s, CellAnswers env X y s (gridReads env r y s) ((grid.get y).get s) :=
  Finds.forTiers fun y => Finds.forTiers fun s => gridCell_finds env r X y s

/-- What stage 8 leaves in RESULTS, R225, for what its formulas read at each tier pair. -/
structure GridFilled (env : CalcEnv) (reads : Tier → Tier → Config.GridReads) (r : Results) : Prop where
  cells : ∀ X y s, CellAnswers env X y s (reads y s) (r.cell X y s)
  enables : ∀ X, r.stateChangeEnable.get X = (r.cell X .high .high).feasible env.vbios

theorem GridFilled.upTo_iff {env : CalcEnv} {reads : Tier → Tier → Config.GridReads} {r : Results} :
    GridFilled env reads (r.upTo 8) ↔ GridFilled env reads r := ⟨fun h => { h with }, fun h => { h with }⟩

theorem stage8_ensures (env : CalcEnv) (r : Results) :
    Ensures r (stage8 env) fun _ r' => GridFilled env (gridReads env r) r' := by
  unfold stage8
  refine Ensures.bind (capabilityGrid_finds env r .nbp) fun nbp hnbp => Ensures.bind (capabilityGrid_finds env r .cpup)
    fun cpup hcpup => Ensures.bind (capabilityGrid_finds env r .cpuc) fun cpuc hcpuc =>
    Ensures.changeResults fun e => ⟨fun X => ?cells, fun X => ?enables⟩
  case cells =>
    cases X with
    | nbp => exact hnbp
    | cpup => exact hcpup
    | cpuc => exact hcpuc
  case enables => cases X <;> rfl

theorem gridReads_congr (env : CalcEnv) {r r' : Results}
    (core : ∀ i, (slotView i r).toSurfaceCore = (slotView i r').toSurfaceCore) : gridReads env r = gridReads env r' := by
  have cls : ∀ i, (slotView i r).cls = (slotView i r').cls := fun i => congrArg SurfaceCore.cls (core i)
  have view : ∀ i, ((slotView i r).req, (slotView i r).bw, (slotView i r).buf)
      = ((slotView i r').req, (slotView i r').bw, (slotView i r').buf) := fun i => by rw [core]
  funext y s
  rw [gridReads, gridReads, enabledViews_congr (view := fun v => (v.req, v.bw, v.buf)) cls view]

theorem resultsOf_core_afterStage7 (env : CalcEnv) (draws : Nat) (i : Slot) :
    (slotView i (resultsOf env draws)).toSurfaceCore = (slotView i (afterStage7 env draws).2.results).toSurfaceCore :=
  Surface.core_eq_of_upTo (slotView_upTo_eq (resultsOf_upTo7 env draws (k := 6) (by omega)) i) le_rfl

theorem resultsOf_gridFilled (env : CalcEnv) (draws : Nat) :
    GridFilled env (gridReads env (resultsOf env draws)) (resultsOf env draws) := by
  rw [gridReads_congr env (resultsOf_core_afterStage7 env draws), ← GridFilled.upTo_iff,
    resultsOf_upTo8 env draws (by omega), GridFilled.upTo_iff, afterStage8]
  exact (stage8_ensures env _).run (afterStage7 env draws).2

/-! ## The slots of the grid (10_state.md R35) -/

theorem Tier.rank_lt (t : Tier) : t.rank < 3 := by cases t <;> decide

theorem tierOfRank_rank (t : Tier) : tierOfRank t.rank = t := by cases t <;> rfl

theorem Capability.number_lt (X : Capability) : X.number < 3 := by cases X <;> decide

theorem capabilityOfIndex_number (X : Capability) : capabilityOfIndex X.number = X := by cases X <;> rfl

/-- Slots 36 to 89 are the grid's. -/
theorem Results.slot_grid (r : Results) {t : Nat} (h : t < 54) : r.slot (36 + t) = r.gridSlot t := by
  have scalar : 36 + t < 128 := by omega
  rw [Results.slot, if_pos scalar]
  unfold Results.scalarSlot
  split
  case h_47 => rw [if_pos (by omega), Nat.add_sub_cancel_left]
  all_goals omega

theorem Results.gridSlot_eq (r : Results) (X : Capability) (y s : Tier) (K : Nat) (hK : K < 2) :
    r.gridSlot (18 * X.number + 9 * K + 3 * y.rank + s.rank)
      = if K = 0 then (r.cell X y s).margin else (r.cell X y s).dispclkRequired := by
  have hy := y.rank_lt
  have hs := s.rank_lt
  have capability : (18 * X.number + 9 * K + 3 * y.rank + s.rank) / 18 = X.number := by omega
  have kind : (18 * X.number + 9 * K + 3 * y.rank + s.rank) / 9 % 2 = K := by omega
  have yclk : (18 * X.number + 9 * K + 3 * y.rank + s.rank) / 3 % 3 = y.rank := by omega
  have sclk : (18 * X.number + 9 * K + 3 * y.rank + s.rank) % 3 = s.rank := by omega
  rw [Results.gridSlot, capability, kind, yclk, sclk, capabilityOfIndex_number, tierOfRank_rank, tierOfRank_rank]

theorem Results.slot_margin (r : Results) (X : Capability) (y s : Tier) :
    r.slot (36 + 18 * X.number + 3 * y.rank + s.rank) = (r.cell X y s).margin := by
  have := X.number_lt
  have := y.rank_lt
  have := s.rank_lt
  have place : 36 + 18 * X.number + 3 * y.rank + s.rank = 36 + (18 * X.number + 9 * 0 + 3 * y.rank + s.rank) := by omega
  rw [place, Results.slot_grid r (by omega), Results.gridSlot_eq r X y s 0 (by omega), if_pos rfl]

theorem Results.slot_dispclkRequired (r : Results) (X : Capability) (y s : Tier) :
    r.slot (36 + 18 * X.number + 9 + 3 * y.rank + s.rank) = (r.cell X y s).dispclkRequired := by
  have := X.number_lt
  have := y.rank_lt
  have := s.rank_lt
  have place : 36 + 18 * X.number + 9 + 3 * y.rank + s.rank = 36 + (18 * X.number + 9 * 1 + 3 * y.rank + s.rank) := by omega
  rw [place, Results.slot_grid r (by omega), Results.gridSlot_eq r X y s 1 (by omega), if_neg (by decide)]

end Sys2Proof.Machine

namespace Sys2Proof

open Machine

/-- Settles O51: what stage 8 fills in, which no later stage touches, and the layout of the grid. -/
theorem stateChangeEnables : Obligations.StateChangeEnables := by
  intro env draws r
  have filled := resultsOf_gridFilled env draws
  rw [show resultsOf env draws = r from rfl] at filled
  clear_value r
  refine ⟨filled.cells, fun X => ?enables, fun X y s => ⟨r.slot_margin X y s, r.slot_dispclkRequired X y s⟩⟩
  case enables => rw [filled.enables, GridCell.feasible_iff, Feasible]

end Sys2Proof
end

section
/-!
Stage 9 (45_bwe_calculate.md R226): the least fitting tier of each domain.
-/

namespace Sys2Proof.Machine

/-! ## Tiers in rising order -/

theorem Tier.eq_of_rank_eq {t t' : Tier} (h : t.rank = t'.rank) : t = t' := by
  rw [← tierOfRank_rank t, h, tierOfRank_rank]

theorem mem_tiersFrom (least t : Tier) : t ∈ tiersFrom least ↔ least.rank ≤ t.rank := by
  cases least <;> cases t <;> decide

theorem tiersFrom_sorted (least : Tier) : (tiersFrom least).Pairwise fun t t' => t.rank ≤ t'.rank := by
  cases least <;> decide

/-- The search from a tier up finds the least tier that fits, where one fits. -/
theorem find?_tiersFrom {least t : Tier} {fits : Tier → Bool} {Fits : Tier → Prop}
    (fits_iff : ∀ t, Fits t ↔ least.rank ≤ t.rank ∧ fits t = true) (h : Fits t)
    (minimal : ∀ t', Fits t' → t.rank ≤ t'.rank) : (tiersFrom least).find? fits = some t := by
  obtain ⟨above, ht⟩ := (fits_iff t).1 h
  have found : ((tiersFrom least).find? fits).isSome = true := by
    rw [List.find?_isSome]
    exact ⟨t, (mem_tiersFrom least t).2 above, ht⟩
  obtain ⟨b, hb⟩ := Option.isSome_iff_exists.1 found
  obtain ⟨mem, fb, first⟩ := find?_least (rising := fun t t' : Tier => t.rank ≤ t'.rank) (fun _ => le_rfl)
    (tiersFrom_sorted least) hb
  have b_fits : Fits b := (fits_iff b).2 ⟨(mem_tiersFrom least b).1 mem, fb⟩
  have same : b = t := Tier.eq_of_rank_eq (le_antisymm (first t ((mem_tiersFrom least t).2 above) ht) (minimal b b_fits))
  rw [hb, same]

theorem find?_tiersFrom_eq_none_iff {least : Tier} {fits : Tier → Bool} {Fits : Tier → Prop}
    (fits_iff : ∀ t, Fits t ↔ least.rank ≤ t.rank ∧ fits t = true) :
    (tiersFrom least).find? fits = none ↔ ∀ t, ¬Fits t := by
  simp only [List.find?_eq_none, mem_tiersFrom, fits_iff, not_and]

/-! ## What fits (R226) -/

theorem yMin_rank (r : Results) : (yMin r).rank = lowestYclk r := by
  rw [yMin, lowestYclk]
  split <;> rfl

theorem sMin_rank (r : Results) : (sMin r).rank = lowestSclk r := by
  simp only [sMin, lowestSclk, Bool.and_eq_true]
  split <;> rfl

theorem mem_enabledCapabilities (r : Results) (X : Capability) :
    X ∈ r.enabledCapabilities ↔ r.stateChangeEnable.get X = true := by
  have all : X ∈ [Capability.nbp, .cpup, .cpuc] := by cases X <;> decide
  rw [Results.enabledCapabilities, List.mem_filter, and_iff_right all]

theorem feasible_iff (v : Vbios) (r : Results) (X : Capability) (y s : Tier) :
    (r.cell X y s).feasible v = true ↔ Feasible v r X y s := GridCell.feasible_iff v _

theorem YclkFits_iff (v : Vbios) (r : Results) (totalDram : W64) (y : Tier) :
    YclkFits v r totalDram y ↔ (yMin r).rank ≤ y.rank ∧ yFits v r totalDram y = true := by
  simp only [YclkFits, yFits, Bool.and_eq_true, Fx.le_iff, List.all_eq_true, List.any_eq_true, mem_enabledCapabilities,
    mem_tiersFrom, feasible_iff, yMin_rank, sMin_rank]

theorem SclkFits_iff (v : Vbios) (r : Results) (totalSclk : W64) (y s : Tier) :
    SclkFits v r totalSclk y s ↔ (sMin r).rank ≤ s.rank ∧ sFits v r totalSclk y s = true := by
  simp only [SclkFits, sFits, Bool.and_eq_true, Fx.le_iff, List.all_eq_true, mem_enabledCapabilities, feasible_iff, sMin_rank]

section

variable {v : Vbios} {r : Results} {total : W64} {y s : Tier}

theorem selectY_eq_some (h : YclkFits v r total y) (least : ∀ y', YclkFits v r total y' → y.rank ≤ y'.rank) :
    selectY v r total = some y := find?_tiersFrom (YclkFits_iff v r total) h least

theorem selectY_eq_none_iff : selectY v r total = none ↔ ∀ y, ¬YclkFits v r total y :=
  find?_tiersFrom_eq_none_iff (YclkFits_iff v r total)

theorem selectS_eq_some (h : SclkFits v r total y s) (least : ∀ s', SclkFits v r total y s' → s.rank ≤ s'.rank) :
    selectS v r total y = some s := find?_tiersFrom (SclkFits_iff v r total y) h least

theorem selectS_eq_none_iff : selectS v r total y = none ↔ ∀ s, ¬SclkFits v r total y s :=
  find?_tiersFrom_eq_none_iff (SclkFits_iff v r total y)

end

/-! ## Stage 9 -/

/-- Everything stage 9 does: its two selections, their levels and clocks, and whether a domain has no fitting tier. -/
theorem stage9_apply (env : CalcEnv) (totals : Totals) (c : CalcState) :
    let y := selectY env.vbios c.results totals.dram
    let s := selectS env.vbios c.results totals.sclk (y.getD .high)
    (stage9 env totals c).1 = ⟨y.isNone, s.isNone⟩ ∧ (stage9 env totals c).2.results = setTiers env.vbios y s c.results :=
  ⟨rfl, rfl⟩

theorem setTiers_yClkLevel (v : Vbios) (y s : Option Tier) (r : Results) : (setTiers v y s r).yClkLevel = y.getD .high := rfl

theorem sentinelWord_eq : sentinelWord = 0x270F000000 := by decide

end Sys2Proof.Machine

namespace Sys2Proof

open Machine

/-- Settles O52: each search of stage 9 finds the least tier that fits, and no tier where none fits. -/
theorem tierSelection : Obligations.TierSelection := by
  intro env totals c
  obtain ⟨noFit, results⟩ := stage9_apply env totals c
  rw [noFit, results]
  generalize selectedY : selectY env.vbios c.results totals.dram = y?
  generalize selectedS : selectS env.vbios c.results totals.sclk (y?.getD .high) = s?
  refine ⟨fun y fits least => ?someY, fun none => ?noneY, fun s fits least => ?someS, fun none => ?noneS⟩
  case someY =>
    rw [selectY_eq_some fits least] at selectedY
    subst selectedY
    exact ⟨rfl, rfl, rfl⟩
  case noneY =>
    rw [selectY_eq_none_iff.2 none] at selectedY
    subst selectedY
    exact ⟨rfl, sentinelWord_eq, rfl⟩
  case someS =>
    rw [selectS_eq_some (y := y?.getD .high) fits least] at selectedS
    subst selectedS
    exact ⟨rfl, rfl, rfl⟩
  case noneS =>
    rw [selectS_eq_none_iff (y := y?.getD .high).2 none] at selectedS
    subst selectedS
    exact ⟨rfl, sentinelWord_eq, rfl⟩

end Sys2Proof
end

section
/-!
Stage 11 in the finished RESULTS (45_bwe_calculate.md R228), with the tier selection of stage 9 (R226) that it reads.
-/

namespace Sys2Proof.Machine

/-! ## VOLTAGE_TABLE -/

theorem notOk_iff (r : Results) (noFit : NoFit) :
    notOk r noFit = true ↔ r.modeCheck ≠ .ok ∨ r.maximumBwCheck ≠ .ok ∨ r.pageCloseOpenCheck ≠ .ok
      ∨ r.pteRequestCheck ≠ .ok ∨ noFit.y = true ∨ noFit.s = true ∨ r.dispclkVoltageTier = 3 := by
  simp only [notOk, Bool.or_eq_true, bne_iff_ne, beq_iff_eq, or_assoc]

/-- The rows of VOLTAGE_TABLE below v_notok. -/
def okVoltage (r : Results) : Voltage :=
  let level := Nat.max (Nat.max r.yClkLevel.rank r.sclkLevel.rank) r.dispclkVoltageTier
  if r.stateChangeEnable.nbp = false then .highNoNbpStateChange
  else if level = 0 then .low
  else if level = 1 then .mid
  else .high

theorem okVoltage_ne (r : Results) : okVoltage r ≠ .notApplicable ∧ okVoltage r ≠ .notok := by
  unfold okVoltage
  dsimp only
  split_ifs <;> decide

theorem classifyVoltage_eq (n : Nat) (r : Results) (noFit : NoFit) :
    classifyVoltage n r noFit
      = if n = 0 then .notApplicable else if notOk r noFit = true then .notok else okVoltage r := by
  rw [classifyVoltage, okVoltage]
  simp only [Bool.not_eq_true']
  generalize Nat.max (Nat.max r.yClkLevel.rank r.sclkLevel.rank) r.dispclkVoltageTier = level
  match level with
  | 0 | 1 | _ + 2 => rfl

theorem classifyVoltage_eq_notApplicable_iff (n : Nat) (r : Results) (noFit : NoFit) :
    classifyVoltage n r noFit = .notApplicable ↔ n = 0 := by
  obtain ⟨ne, -⟩ := okVoltage_ne r
  rw [classifyVoltage_eq]
  split_ifs with zero bad
  · exact iff_of_true rfl zero
  · exact iff_of_false (by decide) zero
  · exact iff_of_false ne zero

theorem classifyVoltage_eq_notok_iff (n : Nat) (r : Results) (noFit : NoFit) :
    classifyVoltage n r noFit = .notok ↔ n ≠ 0 ∧ notOk r noFit = true := by
  obtain ⟨-, ne⟩ := okVoltage_ne r
  rw [classifyVoltage_eq]
  split_ifs with zero bad
  · exact iff_of_false (by decide) fun h => h.1 zero
  · exact iff_of_true rfl ⟨zero, bad⟩
  · exact iff_of_false ne fun h => bad h.2

theorem classifyVoltage_of_ne {n : Nat} {r : Results} {noFit : NoFit} (displays : n ≠ 0)
    (ok : classifyVoltage n r noFit ≠ .notok) : classifyVoltage n r noFit = okVoltage r := by
  have good : ¬notOk r noFit = true := fun bad => ok ((classifyVoltage_eq_notok_iff n r noFit).2 ⟨displays, bad⟩)
  rw [classifyVoltage_eq, if_neg displays, if_neg good]

/-! ## Stage 11 -/

theorem setVoltage_voltage (n : Nat) (noFit : NoFit) (r : Results) :
    (setVoltage n noFit r).voltage = classifyVoltage n r noFit := by
  unfold setVoltage
  dsimp only
  split <;> rfl

/-- A v_notok forces dispclk and required_sclk to the sentinel. -/
theorem setVoltage_of_notok {n : Nat} {noFit : NoFit} {r : Results} (h : (setVoltage n noFit r).voltage = .notok) :
    (setVoltage n noFit r).dispclk = sentinelWord ∧ (setVoltage n noFit r).requiredSclk = sentinelWord := by
  rw [setVoltage_voltage] at h
  have forced : setVoltage n noFit r
      = { r with voltage := .notok, dispclk := sentinelWord, requiredSclk := sentinelWord } := by
    rw [setVoltage]
    simp only [h]
    rfl
  rw [forced]
  exact ⟨rfl, rfl⟩

theorem afterStage11_results (env : CalcEnv) (draws : Nat) :
    (afterStage11 env draws).results = setVoltage env.mode.n (afterStage9 env draws).1 (afterStage10 env draws).results := by
  rw [afterStage11, stage11, changeResults_apply]

/-- The voltage is that of the checks, levels and tiers that the finished RESULTS shows. -/
theorem resultsOf_voltage (env : CalcEnv) (draws : Nat) :
    (resultsOf env draws).voltage = classifyVoltage env.mode.n (resultsOf env draws) (afterStage9 env draws).1 := by
  have view : ∀ r : Results, (r.upTo 11).voltage = r.voltage := fun _ => rfl
  have reads : ∀ (r : Results) n noFit, classifyVoltage n (r.upTo 10) noFit = classifyVoltage n r noFit := fun _ _ _ => rfl
  rw [← view, resultsOf_upTo11 env draws (by omega), view, afterStage11_results, setVoltage_voltage,
    ← reads (resultsOf env draws), resultsOf_upTo10 env draws (by omega), reads]

theorem resultsOf_of_notok {env : CalcEnv} {draws : Nat} (h : (resultsOf env draws).voltage = .notok) :
    (resultsOf env draws).dispclk = sentinelWord ∧ (resultsOf env draws).requiredSclk = sentinelWord := by
  have voltage : ∀ r : Results, (r.upTo 11).voltage = r.voltage := fun _ => rfl
  have dispclk : ∀ r : Results, (r.upTo 11).dispclk = r.dispclk := fun _ => rfl
  have requiredSclk : ∀ r : Results, (r.upTo 11).requiredSclk = r.requiredSclk := fun _ => rfl
  have upTo := resultsOf_upTo11 env draws (k := 11) (by omega)
  rw [← voltage, upTo, voltage, afterStage11_results] at h
  rw [← dispclk, ← requiredSclk, upTo, dispclk, requiredSclk, afterStage11_results]
  exact setVoltage_of_notok h

/-! ## The tier selection that stage 11 reads -/

theorem stage7_totals (env : CalcEnv) (c : CalcState) :
    (stage7 env c).1.dram = (stage7 env c).2.results.totalDram
      ∧ (stage7 env c).1.sclk = (stage7 env c).2.results.totalSclk := by
  obtain ⟨-, totals⟩ := (stage7_ensures env c.results).run c
  rw [totals]
  exact ⟨rfl, rfl⟩

/-- The totals handed to stage 9 are those that the finished RESULTS shows. -/
theorem afterStage7_totals (env : CalcEnv) (draws : Nat) :
    (afterStage7 env draws).1.dram = (resultsOf env draws).totalDram
      ∧ (afterStage7 env draws).1.sclk = (resultsOf env draws).totalSclk := by
  have dram : ∀ r : Results, (r.upTo 7).totalDram = r.totalDram := fun _ => rfl
  have sclk : ∀ r : Results, (r.upTo 7).totalSclk = r.totalSclk := fun _ => rfl
  rw [← dram, ← sclk, resultsOf_upTo7 env draws (by omega), dram, sclk, afterStage7]
  exact stage7_totals env (afterStage6 env draws)

/-! Stage 9 searches what the finished RESULTS still shows. -/

theorem resultsOf_selectY (env : CalcEnv) (draws : Nat) (total : W64) :
    selectY env.vbios (resultsOf env draws) total = selectY env.vbios (afterStage8 env draws).results total := by
  have view : ∀ r : Results, selectY env.vbios (r.upTo 8) total = selectY env.vbios r total := fun _ => rfl
  rw [← view, resultsOf_upTo8 env draws (by omega), view]

theorem resultsOf_selectS (env : CalcEnv) (draws : Nat) (total : W64) (y : Tier) :
    selectS env.vbios (resultsOf env draws) total y = selectS env.vbios (afterStage8 env draws).results total y := by
  have view : ∀ r : Results, selectS env.vbios (r.upTo 8) total y = selectS env.vbios r total y := fun _ => rfl
  rw [← view, resultsOf_upTo8 env draws (by omega), view]

theorem resultsOf_yClkLevel (env : CalcEnv) (draws : Nat) :
    (resultsOf env draws).yClkLevel
      = (selectY env.vbios (resultsOf env draws) (resultsOf env draws).totalDram).getD .high := by
  have view : ∀ r : Results, (r.upTo 9).yClkLevel = r.yClkLevel := fun _ => rfl
  obtain ⟨-, selected⟩ := stage9_apply env (afterStage7 env draws).1 (afterStage8 env draws)
  rw [← view, resultsOf_upTo9 env draws (by omega), view, afterStage9, selected, setTiers_yClkLevel, resultsOf_selectY,
    (afterStage7_totals env draws).1]

/-- A domain has no fitting tier where the search finds none. -/
theorem afterStage9_noFit (env : CalcEnv) (draws : Nat) :
    (afterStage9 env draws).1
      = ⟨(selectY env.vbios (resultsOf env draws) (resultsOf env draws).totalDram).isNone,
        (selectS env.vbios (resultsOf env draws) (resultsOf env draws).totalSclk (resultsOf env draws).yClkLevel).isNone⟩ := by
  obtain ⟨noFit, -⟩ := stage9_apply env (afterStage7 env draws).1 (afterStage8 env draws)
  obtain ⟨dram, sclk⟩ := afterStage7_totals env draws
  rw [afterStage9, noFit, resultsOf_yClkLevel, resultsOf_selectS, resultsOf_selectY, dram, sclk]

theorem resultsOf_noFitY_iff (env : CalcEnv) (draws : Nat) :
    (afterStage9 env draws).1.y = true
      ↔ ∀ y, ¬YclkFits env.vbios (resultsOf env draws) (resultsOf env draws).totalDram y := by
  rw [afterStage9_noFit, ← selectY_eq_none_iff, Option.isNone_iff_eq_none]

theorem resultsOf_noFitS_iff (env : CalcEnv) (draws : Nat) :
    (afterStage9 env draws).1.s = true
      ↔ ∀ s, ¬SclkFits env.vbios (resultsOf env draws) (resultsOf env draws).totalSclk
        (resultsOf env draws).yClkLevel s := by
  rw [afterStage9_noFit, ← selectS_eq_none_iff, Option.isNone_iff_eq_none]

end Sys2Proof.Machine

namespace Sys2Proof

open Machine

/-- Settles O54: stage 11 on the fields that the finished RESULTS still shows, and stage 9's no-fit marks. -/
theorem infeasibleForcesSentinel : Obligations.InfeasibleForcesSentinel := by
  intro env draws r noFitY noFitS
  have voltage := resultsOf_voltage env draws
  have noFit_y := resultsOf_noFitY_iff env draws
  have noFit_s := resultsOf_noFitS_iff env draws
  have forced := resultsOf_of_notok (env := env) (draws := draws)
  rw [show resultsOf env draws = r from rfl] at voltage noFit_y noFit_s forced
  rw [sentinelWord_eq] at forced
  rw [show (∀ y, ¬YclkFits env.vbios r r.totalDram y) = noFitY from rfl] at noFit_y
  rw [show (∀ s, ¬SclkFits env.vbios r r.totalSclk r.yClkLevel s) = noFitS from rfl] at noFit_s
  clear_value noFitY noFitS r
  generalize (afterStage9 env draws).1 = noFit at voltage noFit_y noFit_s
  refine ⟨?notApplicable, ?notok, forced, fun displays ok => ?ok⟩
  case notApplicable => rw [voltage, classifyVoltage_eq_notApplicable_iff]
  case notok => rw [voltage, classifyVoltage_eq_notok_iff, notOk_iff, noFit_y, noFit_s]
  case ok =>
    rw [voltage] at ok
    rw [voltage]
    exact classifyVoltage_of_ne displays ok

end Sys2Proof
end

section
/-!
BWE.BWCALCS with a legal MODE: the zero-display answer of 46_bwe_bwcalcs.md R261, and the four passes of R263 to R269: what
one pass answers and leaves, which pass each mark of OUTPUT is from, and that RESULTS is what the last one left.
-/

namespace Sys2Proof.Machine

/-! ## Which of its two effects BWCALCS has (R260, R261) -/

theorem exec_bweBwcalcs_of_noDisplay {s : State} (written : modeWritten s.mem) (legal : LegalMode (modeSlot s.mem))
    (count : modeCount s.mem = 0) : exec .bweBwcalcs s = .next s.evaluateNothing := by
  have load : loadMode s.mem = .legal (modeOf s.mem) := by
    rw [loadMode_of_written s.mem written, if_pos ((modeLegal_iff _).2 legal)]
  show withLegalMode s _ _ = _
  simp only [withLegalMode, load, modeOf_n, count, Nat.lt_irrefl, decide_false, Bool.false_eq_true, if_false, if_true]

theorem exec_bweBwcalcs_of_ready {s : State} (ready : CalcReady s.mem) (count : modeCount s.mem ≠ 0) :
    exec .bweBwcalcs s = .next (s.evaluate (envOf s.mem)) := by
  have run : exec .bweBwcalcs s = .next (if (modeOf s.mem).n = 0 then s.evaluateNothing else s.evaluate (envOf s.mem)) :=
    withLegalMode_of_ready s _ _ ready
  rw [run, modeOf_n, if_neg count]

/-! ## The marks of OUTPUT (R36, R264) -/

theorem slot_storeOutput_mark_eq_getElem? (s : State) (o : Output) {j : Nat} (h : j < o.marks.length) :
    (s.storeOutput o).mem.slot (0x2800 + 8 * (8 + j)) = o.marks[j]? := by
  rw [List.getElem?_eq_getElem h]
  exact slot_storeOutput_mark s o j h

/-! ## No display -/

theorem State.evaluateNothing_bweStatus (s : State) : s.evaluateNothing.bweStatus = s.bweStatus ||| 0x21 := by
  show s.bweStatus ||| 0x1 ||| 0x20 = _
  rw [BitVec.or_assoc]
  rfl

theorem State.evaluateNothing_scalar (s : State) (k : Nat) (h : k < 7) :
    s.evaluateNothing.mem.slot (0x2800 + 8 * k) = zeroDisplayOutput.scalars[k]? := by
  rw [State.evaluateNothing_mem, List.getElem?_eq_getElem (by simpa using h)]
  exact slot_storeOutput_scalar s zeroDisplayOutput k h

theorem State.evaluateNothing_mark (s : State) {j : Nat} (h : j < 72) :
    s.evaluateNothing.mem.slot (0x2800 + 8 * (8 + j)) = some 0 := by
  rw [State.evaluateNothing_mem, slot_storeOutput_mark_eq_getElem? _ _ (by simpa using h)]
  exact List.getElem?_replicate_of_lt h

/-- Settles O57: the command ends in `evaluateNothing`, whose stores are read back slot by slot. -/
theorem zeroDisplays : Obligations.ZeroDisplays := by
  intro s written legal count
  refine ⟨s.evaluateNothing, exec_bweBwcalcs_of_noDisplay written legal count, ?_⟩
  have scalar := State.evaluateNothing_scalar s
  refine ⟨scalar 0 (by decide), scalar 1 (by decide), scalar 2 (by decide), scalar 3 (by decide), scalar 4 (by decide),
    scalar 5 (by decide), scalar 6 (by decide), ?marks, ?others, State.evaluateNothing_bweStatus s, rfl,
    State.evaluateNothing_frame s⟩
  case marks =>
    intro k least below
    have mark := State.evaluateNothing_mark s (j := k - 8) (by omega)
    rwa [Nat.add_sub_cancel' least] at mark
  case others =>
    intro a outsideScalars outsideMarks
    exact read_storeOutput_outside s _ zeroDisplayOutput_marks_length a outsideScalars outsideMarks

/-! ## One pass (R263, R264) -/

theorem Fx.toInt_word?_isSome (a : W64) : (Fx.toInt a).word?.isSome = true := by rw [Fx.toInt, Fx.withOv_word?]; rfl

theorem markNs_value (w : W64) (c : CalcState) : timesThousand w = some (markNs w c).1 := by
  have scaled := fxOp_mul w (Fx.ofInteger 1000) c
  rw [timesThousand, scaled, Option.bind_some]
  exact fxOp_of_isSome (Fx.toInt_word?_isSome _) _

/-- What `mapM` answers where each answer is a function of its element. -/
theorem mapM_value {α δ : Type} {f : δ → CalcM α} {g : δ → Option α} (value : ∀ d c, g d = some (f d c).1) (l : List δ)
    (c : CalcState) : (l.mapM f c).1.map some = l.map g := by
  induction l generalizing c with
  | nil => rfl
  | cons d l ih =>
    rw [List.mapM_cons, CalcM.bind_apply, CalcM.bind_apply, CalcM.pure_apply, List.map_cons, List.map_cons, value d c, ih]

/-- The watermarks of which a pass takes the marks: urgent, stutter exit and nbp of each graphics slot. -/
def Results.markWords (r : Results) : List W64 :=
  graphicsSlots.flatMap fun i => [r.surfaces[i].wm.urgent, r.surfaces[i].wm.stutterExit, r.surfaces[i].wm.nbpStateChange]

/-- RESULTS of a pass that begins with this value of the counter of free values. -/
def passResults (env : CalcEnv) (p : Pass) (draws : Nat) : Results :=
  resultsOf { env with vbios := operatingPoint env.vbios p } draws

theorem runPass_results (env : CalcEnv) (p : Pass) (c : CalcState) :
    (runPass env p c).2.results = passResults env p c.draws := by
  have marks : Keeps id passMarks := Keeps.bind Keeps.getResults fun _ =>
    Keeps.mapM _ fun _ => Keeps.bind (Keeps.fxOp _) fun _ => Keeps.fxOp _
  rw [runPass, CalcM.bind_apply]
  exact (marks _).trans (calcCore_results _ c)

theorem passMarks_value (c : CalcState) : (passMarks c).1.map some = c.results.markWords.map timesThousand := by
  rw [passMarks, CalcM.bind_apply, getResults_apply, mapM_value markNs_value, Results.markWords]

theorem runPass_marks (env : CalcEnv) (p : Pass) (c : CalcState) :
    (runPass env p c).1.map some = (passResults env p c.draws).markWords.map timesThousand := by
  rw [runPass, CalcM.bind_apply, passMarks_value, calcCore_results, passResults, resultsOf]

/-- Kind k of pipe q is entry 3q + k (R264). -/
theorem markWords_getElem? (r : Results) (q : Fin 6) :
    r.markWords[3 * q.val]? = some (slotView (graphicsSlot q) r).wm.urgent
      ∧ r.markWords[3 * q.val + 1]? = some (slotView (graphicsSlot q) r).wm.stutterExit
      ∧ r.markWords[3 * q.val + 2]? = some (slotView (graphicsSlot q) r).wm.nbpStateChange := by
  fin_cases q <;> exact ⟨rfl, rfl, rfl⟩

/-- An entry of the marks of a pass, in ns. -/
theorem runPass_mark (env : CalcEnv) (p : Pass) (c : CalcState) {t : Nat} {w : W64}
    (word : (passResults env p c.draws).markWords[t]? = some w) :
    some ((runPass env p c).1.getD t 0) = timesThousand w := by
  have entry := congrArg (fun l => l[t]?) (runPass_marks env p c)
  simp only [List.getElem?_map, word, Option.map_some] at entry
  obtain ⟨mark, found, value⟩ := Option.map_eq_some_iff.1 entry
  rw [List.getD_eq_getElem?_getD, found, ← value, Option.getD_some]

/-! ## The four passes (R260, R265, R269) -/

theorem Pass.index_lt (p : Pass) : p.index < 4 := by cases p <;> decide

/-- One value for each pass. -/
def Pass.choose {α : Type} (a b c d : α) : Pass → α
  | .a => a
  | .b => b
  | .c => c
  | .d => d

theorem convKhz_keeps (x : W64) : Keeps id (convKhz x) := Keeps.bind (Keeps.fxOp _) fun _ => Keeps.fxOp _

/-- The passes run one after the other, from some states: OUTPUT holds the marks of all four, and RESULTS is what pass d left, since
the conversions of the limits leave it (R269). `runPass` and `convKhz` are made opaque, so that the kernel does not run a pass. -/
theorem evaluate_passes (env : CalcEnv) (c : CalcState) :
    ∃ start : Pass → CalcState, start .a = c
      ∧ (evaluate env c).1.marks = interleaveMarks (runPass env .a (start .a)).1 (runPass env .b (start .b)).1
        (runPass env .c (start .c)).1 (runPass env .d (start .d)).1
      ∧ (evaluate env c).2.results = (runPass env .d (start .d)).2.results := by
  obtain ⟨pass, pass_eq⟩ : ∃ pass, pass = runPass env := exists_eq
  obtain ⟨conv, conv_eq⟩ : ∃ conv, conv = convKhz := exists_eq
  have keeps := convKhz_keeps
  rw [evaluate, ← pass_eq, ← conv_eq]
  rw [← conv_eq] at keeps
  refine ⟨Pass.choose c _ _ _, rfl, rfl, ?_⟩
  exact (keeps _ _).trans (keeps _ _)

/-- Mark 4t + m of OUTPUT is entry t of the marks of pass m, in ns (R264, R265); the free values of a pass are those its own
counter selects. -/
theorem evaluate_marks (env : CalcEnv) (c : CalcState) :
    ∃ draws : Pass → Nat, draws .a = c.draws
      ∧ (∀ (p : Pass) (t : Nat) (w : W64), t < 18 → (passResults env p (draws p)).markWords[t]? = some w →
        (evaluate env c).1.marks[4 * t + p.index]? = timesThousand w)
      ∧ (evaluate env c).2.results = passResults env .d (draws .d) := by
  obtain ⟨start, first, marks, results⟩ := evaluate_passes env c
  refine ⟨fun p => (start p).draws, congrArg CalcState.draws first, fun p t w ht word => ?_, ?_⟩
  · rw [← runPass_mark env p (start p) word, marks, interleaveMarks_getElem? _ _ _ _ t p.index ht p.index_lt]
    cases p <;> rfl
  · rw [results, runPass_results]

/-! ## The records after BWCALCS -/

/-- The marks of pipe q stand in slots 8 + 12q + 4k + m, entry 3q + k of pass m (R264), and RESULTS is that of
pass d (R269). -/
theorem State.evaluate_slots (s : State) (env : CalcEnv) :
    ∃ draws : Pass → Nat, draws .a = s.draws
      ∧ (∀ (q : Fin 6) (p : Pass),
        (s.evaluate env).mem.slot (0x2800 + 8 * (8 + 12 * q.val + p.index))
            = timesThousand (slotView (graphicsSlot q) (passResults env p (draws p))).wm.urgent
          ∧ (s.evaluate env).mem.slot (0x2800 + 8 * (8 + 12 * q.val + 4 + p.index))
            = timesThousand (slotView (graphicsSlot q) (passResults env p (draws p))).wm.stutterExit
          ∧ (s.evaluate env).mem.slot (0x2800 + 8 * (8 + 12 * q.val + 8 + p.index))
            = timesThousand (slotView (graphicsSlot q) (passResults env p (draws p))).wm.nbpStateChange)
      ∧ ∀ k, k < 2048 → (s.evaluate env).mem.slot (0x4000 + 8 * k) = some ((passResults env .d (draws .d)).slot k) := by
  obtain ⟨draws, first, marks, results⟩ := evaluate_marks env (CalcState.start s.draws)
  have entry : ∀ (p : Pass) (t : Nat) (w : W64), t < 18 → (passResults env p (draws p)).markWords[t]? = some w →
      (s.evaluate env).mem.slot (0x2800 + 8 * (8 + (4 * t + p.index))) = timesThousand w := fun p t w ht word => by
    have below := p.index_lt
    rw [State.evaluate_mem, slot_storeOutput_mark_eq_getElem? _ _ (by rw [evaluate_marks_length]; omega)]
    exact marks p t w ht word
  refine ⟨draws, first, fun q p => ?_, fun k hk => ?_⟩
  · obtain ⟨urgent, stutterExit, nbp⟩ := markWords_getElem? (passResults env p (draws p)) q
    rw [show 8 + 12 * q.val + p.index = 8 + (4 * (3 * q.val) + p.index) by omega,
      show 8 + 12 * q.val + 4 + p.index = 8 + (4 * (3 * q.val + 1) + p.index) by omega,
      show 8 + 12 * q.val + 8 + p.index = 8 + (4 * (3 * q.val + 2) + p.index) by omega]
    exact ⟨entry p _ _ (by omega) urgent, entry p _ _ (by omega) stutterExit, entry p _ _ (by omega) nbp⟩
  · rw [State.evaluate_mem, slot_storeOutput_outside _ _ (evaluate_marks_length _ _) _ (by omega), ← results]
    exact slot_storeResults s _ k hk

/-- Settles O59: the counters are those at which the passes begin, and the statement's operating points are the model's. -/
theorem marksAndFinalResults : Obligations.MarksAndFinalResults := by
  intro s ready count
  obtain ⟨draws, first, stored⟩ := s.evaluate_slots (envOf s.mem)
  refine ⟨s.evaluate (envOf s.mem), draws, exec_bweBwcalcs_of_ready ready count, first, ?_⟩
  intro env v point pass
  have point_eq : ∀ p, point p = operatingPoint env.vbios p := fun p => by cases p <;> rfl
  have pass_eq : ∀ p, pass p = passResults (envOf s.mem) p (draws p) := fun p => by
    simp only [pass, point_eq, passResults, env]
  clear_value pass
  simp only [pass_eq, surface_eq_slotView]
  exact stored

end Sys2Proof.Machine
end

section
/-!
Reset between accesses (70_reset_and_hazards.md R310): the step that serves it, and what the registers and records hold after it.
-/

namespace Sys2Proof.Machine

/-- R22: BLK_ID is a constant, in every state. -/
theorem State.readWindow_blkId (s : State) : s.readWindow 0x000 = 0x31435742 := rfl

/-- R184: the registers that reset leaves hold no written half. -/
theorem FReg.reset_unwritten (r : Reg) :
    (Vector.replicate 16 FReg.reset)[r].loWritten = false ∧ (Vector.replicate 16 FReg.reset)[r].hiWritten = false := by
  rw [Fin.getElem_fin, Vector.getElem_replicate]
  exact ⟨rfl, rfl⟩

/-- A reset event is always served: no state makes the block fault or refuse it. -/
theorem step_reset {s : State} {rest : List HostEvent} (pending : s.pending = .reset :: rest) :
    step s = .next ({ s with pending := rest } : State).resetKeepingHost := by
  simp only [step, pending, State.serve, Served.outcome]

/-- Settles O26: `resetKeepingHost` and `State.reset` leave the same registers and records, so each clause rests on one fact for both. -/
theorem resetState : Obligations.ResetState := by
  refine ⟨fun s rest pending => ?event, ?state⟩
  case event =>
    exact ⟨_, step_reset pending, State.resetKeepingHost_fxuStatus _, State.resetKeepingHost_bweStatus _,
      State.resetKeepingHost_bweVersion _, State.readWindow_blkId _, FReg.reset_unwritten, Memory.read_nil,
      State.resetKeepingHost_pending _⟩
  case state =>
    exact ⟨rfl, rfl, rfl, State.readWindow_blkId _, FReg.reset_unwritten, Memory.read_nil⟩

end Sys2Proof.Machine
end

section
/-!
The decoder and the encoder are inverse to each other (30_encoding.md R91, R94, R100), so that a command has one word; and
an FXU command, its word, its result and its frame put together.
-/

namespace Sys2Proof

open Sys2Proof.Machine

/-! ## Decoding what the encoder writes -/

theorem decodeFxu_encodeR3 {op : BitVec 6} {mk : Reg → Reg → Reg → Instr}
    (row : ∀ w, (opField w).toNat = op.toNat → decodeFxu w = decodeR3 w mk) (rd rs1 rs2 : Reg) :
    decodeFxu (encodeR3 op rd rs1 rs2) = .ok (mk rd rs1 rs2) := by
  rw [row _ (opField_encodeR3 op rd rs1 rs2), decodeR3_encode]

theorem decodeFxu_encodeR2 {op : BitVec 6} {mk : Reg → Reg → Instr}
    (row : ∀ w, (opField w).toNat = op.toNat → decodeFxu w = decodeR2 w mk) (rd rs1 : Reg) :
    decodeFxu (encodeR2 op rd rs1) = .ok (mk rd rs1) := by
  rw [row _ (opField_encodeR2 op rd rs1), decodeR2_encode]

theorem decodeFxu_encodeImm {op : BitVec 6} {mk : Reg → BitVec 16 → Instr}
    (row : ∀ w, (opField w).toNat = op.toNat → decodeFxu w = decodeImm w mk) (rd : Reg) (imm16 : BitVec 16) :
    decodeFxu (encodeImm op rd imm16) = .ok (mk rd imm16) := by
  rw [row _ (opField_encodeImm op rd imm16), decodeImm_encode]

theorem decodeBwe_encode_init (version : BitVec 4) (stoney : Bool) :
    decodeBwe (encodeBwe 1 version stoney) = .ok (.bweInit version stoney) :=
  (decodeBwe_eq_bweInit_iff _ version stoney).2 ⟨by simp, by simp, by simp, by simp⟩

/-- Settles O1, row by row of the opcode maps: the opcode selects the row, and the row's format gives back its fields. -/
theorem decodeEncode : Obligations.DecodeEncode := by
  intro i
  cases i with
  | add rd rs1 rs2 | sub rd rs1 rs2 | mul rd rs1 rs2 | div rd rs1 rs2 | mod rd rs1 rs2 | floor rd rs1 rs2
  | ceil rd rs1 rs2 | fromfrac rd rs1 rs2 | min rd rs1 rs2 | max rd rs1 rs2 | clt rd rs1 rs2 | cle rd rs1 rs2
  | ceq rd rs1 rs2 | cne rd rs1 rs2 | cgt rd rs1 rs2 | cge rd rs1 rs2 =>
    exact decodeFxu_encodeR3 (fun w op => by rw [decodeFxu, op]; rfl) rd rs1 rs2
  | neg rd rs1 | abs rd rs1 | fromint rd rs1 | toint rd rs1 | mov rd rs1 =>
    exact decodeFxu_encodeR2 (fun w op => by rw [decodeFxu, op]; rfl) rd rs1
  | ldi rd imm16 | ldih rd imm16 => exact decodeFxu_encodeImm (fun w op => by rw [decodeFxu, op]; rfl) rd imm16
  | bweInit version stoney => exact decodeBwe_encode_init version stoney
  | nop | bweNop | bweCalc | bweBwcalcs => decide

/-- Settles O4, by running the decoder on the six words. -/
theorem workedEncodings : Obligations.WorkedEncodings := by
  unfold Obligations.WorkedEncodings
  decide

/-! ## Encoding what the decoder reads -/

theorem checkedWord_eq_ok {f : Format} {w : W32} {i j : Instr} (h : checkedWord f w i = .ok j) :
    f.zeroFieldsOk w = true ∧ j = i := by
  unfold checkedWord at h
  split at h
  next ok => exact ⟨ok, (Except.ok.inj h).symm⟩
  next => cases h

theorem checkedBwe_eq_ok {w : W32} {i j : Instr} (h : checkedBwe w i = .ok j) :
    (bweHighBitsOk w = true ∧ bweInitFieldsZero w = true) ∧ j = i :=
  ⟨(exists_checkedBwe_ok_iff w i).1 ⟨j, h⟩, eq_of_checkedBwe_eq_ok h⟩

theorem field_eq_zero_iff (w : W32) (lo n : Nat) : (field w lo n == 0) = true ↔ w.toNat / 2 ^ lo % 2 ^ n = 0 := by
  rw [beq_iff_eq, ← BitVec.toNat_inj, field_toNat]
  simp

section

variable {w : W32} {op : BitVec 6}

theorem encodeR3_fields (zero : Format.zeroFieldsOk .r3 w = true) (hop : (opField w).toNat = op.toNat) :
    encodeR3 op (rdField w) (rs1Field w) (rs2Field w) = w := by
  have bound := w.isLt
  rw [Format.zeroFieldsOk, field_eq_zero_iff] at zero
  rw [opField, field_toNat] at hop
  apply BitVec.eq_of_toNat_eq
  rw [encodeR3_toNat, ← hop, rdField, rs1Field, rs2Field, regField_val, regField_val, regField_val]
  omega

theorem encodeR2_fields (zero : Format.zeroFieldsOk .r2 w = true) (hop : (opField w).toNat = op.toNat) :
    encodeR2 op (rdField w) (rs1Field w) = w := by
  have bound := w.isLt
  rw [Format.zeroFieldsOk, field_eq_zero_iff] at zero
  rw [opField, field_toNat] at hop
  apply BitVec.eq_of_toNat_eq
  rw [encodeR2_toNat, ← hop, rdField, rs1Field, regField_val, regField_val]
  omega

theorem encodeImm_fields (zero : Format.zeroFieldsOk .imm w = true) (hop : (opField w).toNat = op.toNat) :
    encodeImm op (rdField w) (immField w) = w := by
  have bound := w.isLt
  rw [Format.zeroFieldsOk, field_eq_zero_iff] at zero
  rw [opField, field_toNat] at hop
  apply BitVec.eq_of_toNat_eq
  rw [encodeImm_toNat, ← hop, rdField, immField, regField_val, field_toNat]
  omega

/-! A row reads only the words to which its command encodes. -/

theorem decodeR3_encodes {mk : Reg → Reg → Reg → Instr} {i : Instr} (h : decodeR3 w mk = .ok i)
    (unit : ∀ a b c, (mk a b c).unit = .fxu) (word : ∀ a b c, encode (mk a b c) = encodeR3 op a b c)
    (hop : (opField w).toNat = op.toNat) : i.unit = .fxu ∧ encode i = w := by
  obtain ⟨zero, rfl⟩ := checkedWord_eq_ok h
  exact ⟨unit _ _ _, (word _ _ _).trans (encodeR3_fields zero hop)⟩

theorem decodeR2_encodes {mk : Reg → Reg → Instr} {i : Instr} (h : decodeR2 w mk = .ok i)
    (unit : ∀ a b, (mk a b).unit = .fxu) (word : ∀ a b, encode (mk a b) = encodeR2 op a b)
    (hop : (opField w).toNat = op.toNat) : i.unit = .fxu ∧ encode i = w := by
  obtain ⟨zero, rfl⟩ := checkedWord_eq_ok h
  exact ⟨unit _ _, (word _ _).trans (encodeR2_fields zero hop)⟩

theorem decodeImm_encodes {mk : Reg → BitVec 16 → Instr} {i : Instr} (h : decodeImm w mk = .ok i)
    (unit : ∀ a b, (mk a b).unit = .fxu) (word : ∀ a b, encode (mk a b) = encodeImm op a b)
    (hop : (opField w).toNat = op.toNat) : i.unit = .fxu ∧ encode i = w := by
  obtain ⟨zero, rfl⟩ := checkedWord_eq_ok h
  exact ⟨unit _ _, (word _ _).trans (encodeImm_fields zero hop)⟩

end

theorem decodeNop_encodes {w : W32} {i : Instr} (hop : (opField w).toNat = 0x1B)
    (h : checkedWord .none w .nop = .ok i) : i.unit = .fxu ∧ encode i = w := by
  obtain ⟨zero, rfl⟩ := checkedWord_eq_ok h
  refine ⟨rfl, BitVec.eq_of_toNat_eq ?_⟩
  have bound := w.isLt
  rw [Format.zeroFieldsOk, field_eq_zero_iff] at zero
  rw [opField, field_toNat] at hop
  have word : (encode .nop).toNat = 0x6C000000 := rfl
  omega

theorem decodeFxu_encodes {w : W32} {i : Instr} (h : decodeFxu w = .ok i) : i.unit = .fxu ∧ encode i = w := by
  unfold decodeFxu at h
  split at h
  case h_1 op | h_2 op | h_3 op | h_4 op | h_5 op | h_8 op | h_9 op | h_11 op | h_13 op | h_14 op | h_15 op | h_16 op
      | h_17 op | h_18 op | h_19 op | h_20 op =>
    exact decodeR3_encodes h (fun _ _ _ => rfl) (fun _ _ _ => rfl) op
  case h_6 op | h_7 op | h_10 op | h_12 op | h_23 op => exact decodeR2_encodes h (fun _ _ => rfl) (fun _ _ => rfl) op
  case h_21 op | h_22 op => exact decodeImm_encodes h (fun _ _ => rfl) (fun _ _ => rfl) op
  case h_24 op => exact decodeNop_encodes op h
  case h_25 => cases h

/-- A BWE word whose bits 31:9 are zero is the encoding of its fields. -/
theorem encodeBwe_fields {w : W32} (high : bweHighBitsOk w = true) :
    encodeBwe (cmdField w) (versionField w) (stoneyField w) = w :=
  ((eq_encodeBwe_iff w _ _ _).2 ⟨high, rfl, rfl, rfl⟩).symm

theorem bweInitFieldsZero_fields {w : W32} (zero : bweInitFieldsZero w = true) :
    versionField w = 0 ∧ stoneyField w = false := by
  have agrees : field w 4 5 = field (0#32) 4 5 := by rw [field_zero]; simpa [bweInitFieldsZero] using zero
  rw [field_eq_iff_cut _ _ (k := 4) (m := 1) 8 rfl rfl, field_zero, field_zero] at agrees
  exact ⟨agrees.2, by rw [stoneyField, agrees.1]; rfl⟩

theorem checkedBwe_encodes {w : W32} {i j : Instr} {cmd : BitVec 4} (h : checkedBwe w i = .ok j) (unit : i.unit = .bwe)
    (word : encode i = encodeBwe cmd 0 false) (hcmd : (cmdField w).toNat = cmd.toNat) : j.unit = .bwe ∧ encode j = w := by
  obtain ⟨⟨high, zero⟩, rfl⟩ := checkedBwe_eq_ok h
  obtain ⟨version, stoney⟩ := bweInitFieldsZero_fields zero
  refine ⟨unit, ?_⟩
  rw [word, ← BitVec.eq_of_toNat_eq hcmd, ← version, ← stoney, encodeBwe_fields high]

theorem decodeBwe_encodes {w : W32} {i : Instr} (h : decodeBwe w = .ok i) : i.unit = .bwe ∧ encode i = w := by
  unfold decodeBwe at h
  split at h
  case h_1 cmd | h_3 cmd | h_4 cmd => exact checkedBwe_encodes h rfl rfl cmd
  case h_2 cmd =>
    split at h
    next high =>
      obtain rfl := Except.ok.inj h
      have one : cmdField w = 1 := BitVec.eq_of_toNat_eq cmd
      exact ⟨rfl, by rw [encode, ← one, encodeBwe_fields high]⟩
    next => cases h
  case h_5 => cases h

/-- Settles O2, row by row: the opcode or CMD and the fields of a row are all the bits of a word that it accepts. -/
theorem encodeDecode : Obligations.EncodeDecode := by
  intro u w i h
  cases u with
  | fxu => exact decodeFxu_encodes h
  | bwe => exact decodeBwe_encodes h

/-! ## The one word of a command -/

/-- Of all words of its unit, the encoding of a command and no other is the command (O1, O2). -/
theorem onlyWord_encode {u : CmdUnit} {w : W32} {i : Instr} (unit : i.unit = u) (word : w = encode i) :
    OnlyWord u w i := by
  subst unit word
  intro w'
  constructor
  · intro h
    exact ((encodeDecode _ w' i h).2).symm
  · rintro rfl
    exact decodeEncode i

end Sys2Proof
end


section
/-!
What every command does: an FXU command reads its sources and retires one result; a BWE command leaves everything as it is, loads the
tables, raises ILL, calculates or evaluates. The statements about all commands follow case by case.
-/

namespace Sys2Proof.Machine

/-! ## FXU commands (40_fxu_arith.md R109) -/

/-- The sources of a command marked as read, one after the other. -/
def State.readAll (s : State) (sources : List Reg) : State := sources.foldl State.touchFr s

theorem State.readAll_eq (s : State) (sources : List Reg) :
    s.readAll sources = { s with launchFault := s.launchFault || sources.any fun r => !s.fr[r].written } := by
  induction sources generalizing s with
  | nil => simp [State.readAll]
  | cons r sources ih =>
    have := ih (s.touchFr r)
    simpa [State.readAll, State.touchFr, Bool.or_assoc] using this

/-- The command writes one register, with a result that depends on nothing but the words of its sources. -/
def Retires (i : Instr) : Prop :=
  ∃ (rd : Reg) (f : List W64 → FxResult), ∀ s,
    exec i s = .next ((s.readAll (sourcesOf i)).retire rd (f ((sourcesOf i).map s.frValue)))

theorem retires_of_fxu2 {i : Instr} {f : W64 → W64 → FxResult} {rd rs1 rs2 : Reg}
    (runs : ∀ s, exec i s = .next (s.fxu2 f rd rs1 rs2)) (sources : sourcesOf i = [rs1, rs2]) : Retires i :=
  ⟨rd, fun words => f (words.getD 0 0) (words.getD 1 0), fun s => by rw [runs, sources]; rfl⟩

theorem retires_of_fxu1 {i : Instr} {f : W64 → FxResult} {rd rs1 : Reg}
    (runs : ∀ s, exec i s = .next (s.fxu1 f rd rs1)) (sources : sourcesOf i = [rs1]) : Retires i :=
  ⟨rd, fun words => f (words.getD 0 0), fun s => by rw [runs, sources]; rfl⟩

theorem retires_of_compare2 {i : Instr} {f : W64 → W64 → Bool} {rd rs1 rs2 : Reg}
    (runs : ∀ s, exec i s = .next (s.compare2 f rd rs1 rs2)) (sources : sourcesOf i = [rs1, rs2]) : Retires i :=
  retires_of_fxu2 (f := fun a b => .exact (Fx.truth (f a b))) runs sources

theorem exec_fxu (i : Instr) (unit : i.unit = .fxu) : i = .nop ∨ Retires i := by
  cases i with
  | nop => exact .inl rfl
  | bweNop | bweInit _ _ | bweCalc | bweBwcalcs => cases unit
  | ldi rd imm16 => exact .inr ⟨rd, fun _ => .exact (immSigned imm16), fun _ => rfl⟩
  | ldih _ _ | neg _ _ | abs _ _ | fromint _ _ | toint _ _ | mov _ _ =>
    exact .inr (retires_of_fxu1 (fun _ => rfl) rfl)
  | add _ _ _ | sub _ _ _ | mul _ _ _ | div _ _ _ | mod _ _ _ | floor _ _ _ | ceil _ _ _ | fromfrac _ _ _ | min _ _ _
  | max _ _ _ => exact .inr (retires_of_fxu2 (fun _ => rfl) rfl)
  | clt _ _ _ | cle _ _ _ | ceq _ _ _ | cne _ _ _ | cgt _ _ _ | cge _ _ _ =>
    exact .inr (retires_of_compare2 (fun _ => rfl) rfl)

theorem State.retire_fxuStatus (s : State) (rd : Reg) (x : FxResult) :
    (s.retire rd x).fxuStatus = s.fxuStatus ||| x.raised :=
  (State.retire_writes s rd x).status

theorem FxResult.raised_sticky (x : FxResult) : x.raised &&& ~~~fxuStickyBits = 0 := by
  cases x with
  | exact v => exact (by decide : 0 &&& ~~~fxuStickyBits = 0)
  | overflow v => exact (by decide : fxuStatusBit .ov &&& ~~~fxuStickyBits = 0)
  | divByZero => exact (by decide : fxuStatusBit .dz &&& ~~~fxuStickyBits = 0)

/-- The next state of an FXU command, in the terms of the state that it leaves. -/
theorem exec_fxu_next {i : Instr} {s t : State} (unit : i.unit = .fxu) (h : exec i s = .next t) :
    t.mem = s.mem ∧ t.bweStatus = s.bweStatus ∧ t.bweVersion = s.bweVersion
      ∧ (∃ raised, raised &&& ~~~fxuStickyBits = 0 ∧ t.fxuStatus = s.fxuStatus ||| raised)
      ∧ t.launchFault = (s.launchFault || (sourcesOf i).any fun r => !s.fr[r].written) := by
  obtain rfl | ⟨rd, f, runs⟩ := exec_fxu i unit
  · obtain rfl := Host.Outcome.next.inj h
    exact ⟨rfl, rfl, rfl, ⟨0, rfl, by simp⟩, by simp [sourcesOf]⟩
  · obtain rfl := Host.Outcome.next.inj ((runs s).symm.trans h)
    exact ⟨by simp [State.readAll_eq], by simp [State.readAll_eq], by simp [State.readAll_eq],
      ⟨_, FxResult.raised_sticky _, by rw [State.retire_fxuStatus, State.readAll_eq]⟩, by simp [State.readAll_eq]⟩

/-! ## BWE commands -/

/-- What a BWE command that gives a next state has done. -/
inductive BweEffect (s : State) : Instr → State → Prop
  | idle : BweEffect s .bweNop s
  | tables (version : BitVec 4) (stoney : Bool) : BweEffect s (.bweInit version stoney) (s.loadTables version stoney)
  | illegal (i : Instr) : BweEffect s i (s.raiseBwe .ill)
  | calculation (env : CalcEnv) : BweEffect s .bweCalc (s.calc env)
  | nothing : BweEffect s .bweBwcalcs s.evaluateNothing
  | evaluation (env : CalcEnv) : BweEffect s .bweBwcalcs (s.evaluate env)

theorem bwe_cases {i : Instr} (unit : i.unit = .bwe) :
    i = .bweNop ∨ (∃ version stoney, i = .bweInit version stoney) ∨ i = .bweCalc ∨ i = .bweBwcalcs := by
  cases i <;> simp [Instr.unit] at unit ⊢

theorem exec_bwe_next {i : Instr} {s t : State} (unit : i.unit = .bwe) (h : exec i s = .next t) : BweEffect s i t := by
  obtain rfl | ⟨version, stoney, rfl⟩ | rfl | rfl := bwe_cases unit
  · obtain rfl := Host.Outcome.next.inj h
    exact .idle
  · obtain rfl := Host.Outcome.next.inj h
    exact .tables version stoney
  · obtain rfl | ⟨_, _, rfl, _⟩ := execBweCalc_next h
    · exact .illegal _
    · exact .calculation _
  · obtain rfl | ⟨_, _, ⟨_, rfl⟩ | ⟨_, rfl, _⟩⟩ := execBweBwcalcs_next h
    · exact .illegal _
    · exact .nothing
    · exact .evaluation _

theorem BweEffect.frame {s t : State} {i : Instr} (h : BweEffect s i t) : BweFrame s t := by
  cases h with
  | idle | tables _ _ | illegal => exact ⟨fun _ => rfl, rfl, rfl, rfl, rfl⟩
  | calculation env => exact State.calc_frame s env
  | nothing => exact State.evaluateNothing_frame s
  | evaluation env => exact State.evaluate_frame s env

theorem sourcesOf_of_bwe {i : Instr} (unit : i.unit = .bwe) : sourcesOf i = [] := by
  obtain rfl | ⟨_, _, rfl⟩ | rfl | rfl := bwe_cases unit <;> rfl

/-- Settles O22, unit by unit: an FXU command marks its sources as read, a BWE command has none and leaves the mark. -/
theorem unwrittenSourcesAreMarked : Obligations.UnwrittenSourcesAreMarked := by
  intro i s t h
  cases unit : i.unit with
  | fxu =>
    obtain ⟨_, _, _, _, mark⟩ := exec_fxu_next unit h
    exact mark
  | bwe => simp [sourcesOf_of_bwe unit, (exec_bwe_next unit h).frame.launchFault]


/-! ## The two units (60_exceptions.md R296) -/

theorem State.retire_otherUnit (s : State) (rd : Reg) (x : FxResult) (m : Memory) (status version : W32) :
    ({ s with mem := m, bweStatus := status, bweVersion := version } : State).retire rd x
      = { s.retire rd x with mem := m, bweStatus := status, bweVersion := version } := by
  cases x <;> rfl

theorem exec_fxu_otherUnit {i : Instr} {s t : State} (unit : i.unit = .fxu) (h : exec i s = .next t) (m : Memory)
    (status version : W32) : exec i { s with mem := m, bweStatus := status, bweVersion := version }
      = .next { t with mem := m, bweStatus := status, bweVersion := version } := by
  obtain rfl | ⟨rd, f, runs⟩ := exec_fxu i unit
  · obtain rfl := Host.Outcome.next.inj h
    rfl
  · obtain rfl := Host.Outcome.next.inj ((runs s).symm.trans h)
    rw [runs, State.readAll_eq, State.readAll_eq]
    exact congrArg Host.Outcome.next (State.retire_otherUnit { s with launchFault := _ } rd _ m status version)

/-- A state with other FXU registers. -/
def State.withFxu (s : State) (fr : Vector FReg 16) (status : W32) : State := { s with fr := fr, fxuStatus := status }

section

variable (s : State) (fr : Vector FReg 16) (status : W32)

theorem State.raiseBweIf_withFxu (b : Bool) (c : Cond) :
    (s.withFxu fr status).raiseBweIf b c = (s.raiseBweIf b c).withFxu fr status := by
  cases b <;> rfl

theorem State.recordCalc_withFxu (c : CalcState) :
    (s.withFxu fr status).recordCalc c = (s.recordCalc c).withFxu fr status := by
  rw [State.recordCalc, State.raiseBweIf_withFxu, State.raiseBweIf_withFxu]
  rfl

theorem State.calc_withFxu (env : CalcEnv) : (s.withFxu fr status).calc env = (s.calc env).withFxu fr status := by
  have draws : (s.withFxu fr status).draws = s.draws := rfl
  rw [State.calc, State.calc, draws]
  generalize (calcCore env (CalcState.start s.draws)).2 = c
  exact congrArg State.setResValid (State.recordCalc_withFxu (s.storeResults c.results) fr status c)

theorem State.evaluate_withFxu (env : CalcEnv) :
    (s.withFxu fr status).evaluate env = (s.evaluate env).withFxu fr status := by
  have draws : (s.withFxu fr status).draws = s.draws := rfl
  rw [State.evaluate, State.evaluate, draws]
  generalize Machine.evaluate env (CalcState.start s.draws) = r
  exact congrArg (fun u => (State.setResValid u).setVerdict r.1.supported)
    (State.recordCalc_withFxu ((s.storeResults r.2.results).storeOutput r.1) fr status r.2)

theorem withLegalMode_withFxu {t : State} {needs : Mode → Bool} {run run' : Mode → State}
    (runs : ∀ mode, run' mode = (run mode).withFxu fr status) (h : withLegalMode s needs run = .next t) :
    withLegalMode (s.withFxu fr status) needs run' = .next (t.withFxu fr status) := by
  have mem : (s.withFxu fr status).mem = s.mem := rfl
  unfold withLegalMode at h ⊢
  rw [mem]
  generalize loadMode s.mem = loaded at h ⊢
  cases loaded with
  | unwritten a => cases h
  | illegal => obtain rfl := Host.Outcome.next.inj h; rfl
  | legal mode =>
    simp only [runs] at h ⊢
    by_cases needed : needs mode = true
    · rw [if_pos needed] at h ⊢
      generalize firstUnwritten s.mem capabilityOffsets = missing at h ⊢
      cases missing with
      | some a => cases h
      | none => obtain rfl := Host.Outcome.next.inj h; rfl
    · rw [if_neg needed] at h ⊢
      obtain rfl := Host.Outcome.next.inj h
      rfl

end

theorem exec_bwe_otherUnit {i : Instr} {s t : State} (unit : i.unit = .bwe) (h : exec i s = .next t)
    (fr : Vector FReg 16) (status : W32) : exec i (s.withFxu fr status) = .next (t.withFxu fr status) := by
  obtain rfl | ⟨version, stoney, rfl⟩ | rfl | rfl := bwe_cases unit
  · obtain rfl := Host.Outcome.next.inj h
    rfl
  · obtain rfl := Host.Outcome.next.inj h
    rfl
  · exact withLegalMode_withFxu s fr status (fun mode => State.calc_withFxu s fr status (calcEnv s.mem mode)) h
  · refine withLegalMode_withFxu s fr status (fun mode => ?_) h
    split
    · rfl
    · exact State.evaluate_withFxu s fr status (calcEnv s.mem mode)

/-- Settles O23: an FXU command retires a result of FR words, a BWE command a result of the records. -/
theorem unitsShareNothing : Obligations.UnitsShareNothing := by
  intro i s t h
  exact ⟨fun unit => exec_fxu_otherUnit unit h, fun unit => exec_bwe_otherUnit unit h⟩

/-! ## The capability records (44_bwe_init.md R195) -/

theorem BweEffect.capabilities {s t : State} {i : Instr} (h : BweEffect s i t) (other : ∀ v st, i ≠ .bweInit v st)
    {a : Nat} (lo : 0x1000 ≤ a) (hi : a < 0x2800) : t.mem.read a = s.mem.read a := by
  cases h with
  | idle | illegal => rfl
  | tables version stoney => exact absurd rfl (other version stoney)
  | calculation env => rw [State.calc_mem, read_storeResults_outside _ _ _ (by omega)]
  | nothing =>
    rw [State.evaluateNothing_mem, read_storeOutput_outside _ _ zeroDisplayOutput_marks_length _ (by omega) (by omega)]
  | evaluation env =>
    rw [State.evaluate_mem, read_storeOutput_outside _ _ (evaluate_marks_length _ _) _ (by omega) (by omega),
      read_storeResults_outside _ _ _ (by omega)]

/-- Settles O25: an FXU command leaves the records, and CALC and BWCALCS store at 0x2800 and above. -/
theorem onlyInitWritesCapabilities : Obligations.OnlyInitWritesCapabilities := by
  intro i s t h other a lo hi
  cases unit : i.unit with
  | fxu =>
    obtain ⟨mem, _⟩ := exec_fxu_next unit h
    rw [mem]
  | bwe => exact (exec_bwe_next unit h).capabilities other lo hi

/-! ## Issuing (20_memory.md R77, R79) -/

/-- Settles O5: a write to a command register issues the word, and a word that decodes is executed. -/
theorem stepRunsDecoded : Obligations.StepRunsDecoded := by
  intro s rest u w i hp hd
  rw [step_write s rest (commandOffset u) w hp (by cases u <;> decide) (by cases u <;> decide),
    State.writeWindow_commandOffset, State.issue, hd]
  rfl

end Sys2Proof.Machine
end
section
/-!
The invariant (Inv) and the sticky bits, step by step: a step is a host access or a command, and each changes the status registers by
setting bits, by clearing written ones, or not at all, and the records by stores inside them.
-/

namespace Sys2Proof.Machine

/-! ## Bits of a status register -/

theorem and_or_and (w x m : W32) : (w ||| x) &&& m = (w &&& m) ||| (x &&& m) := by
  ext k hk
  simp [Bool.and_or_distrib_right]

theorem reserved_or {w x m : W32} (hw : w &&& ~~~m = 0) (hx : x &&& ~~~m = 0) : (w ||| x) &&& ~~~m = 0 := by
  rw [and_or_and, hw, hx]
  simp

theorem reserved_and {w m : W32} (hw : w &&& ~~~m = 0) (x : W32) : (w &&& x) &&& ~~~m = 0 := by
  rw [BitVec.and_assoc, BitVec.and_comm x, ← BitVec.and_assoc, hw]
  simp

theorem bitSet_or_of_disjoint (w : W32) {x bit : W32} (h : x &&& bit = 0) : bitSet (w ||| x) bit = bitSet w bit := by
  rw [bitSet, bitSet, and_or_and, h]
  simp

theorem bitSet_of_and {w x bit : W32} (h : bitSet (w &&& x) bit = true) : bitSet w bit = true := by
  simp only [bitSet, beq_iff_eq] at h ⊢
  calc w &&& bit = w &&& (w &&& x &&& bit) := by rw [h]
    _ = w &&& x &&& bit := by rw [BitVec.and_assoc w x, ← BitVec.and_assoc w, BitVec.and_self]
    _ = bit := h

/-- Every bit of `m` that is set in `w` is set in `u`. -/
def KeepsBits (m w u : W32) : Prop := w &&& m &&& ~~~u = 0

theorem keepsBits_iff (m w u : W32) :
    KeepsBits m w u ↔ ∀ k, k < 32 → w.getLsbD k = true → m.getLsbD k = true → u.getLsbD k = true := by
  constructor
  · intro h k hk hw hm
    have := congrArg (fun v => BitVec.getLsbD v k) h
    simpa [hk, hw, hm] using this
  · intro h
    refine BitVec.eq_of_getLsbD_eq fun k hk => ?_
    by_cases both : w.getLsbD k = true ∧ m.getLsbD k = true
    · simp [h k hk both.1 both.2]
    · simp only [BitVec.getLsbD_and, Bool.eq_false_iff.2 (by simpa using both : ¬(w.getLsbD k && m.getLsbD k) = true)]
      simp

theorem KeepsBits.refl (m w : W32) : KeepsBits m w w := (keepsBits_iff m w w).2 fun _ _ hw _ => hw

theorem KeepsBits.or {m w u : W32} (h : KeepsBits m w u) (x : W32) : KeepsBits m w (u ||| x) :=
  (keepsBits_iff _ _ _).2 fun k hk hw hm => by simp [(keepsBits_iff _ _ _).1 h k hk hw hm]

theorem KeepsBits.andNot {m w u x : W32} (h : KeepsBits m w u) (disjoint : m &&& x = 0) : KeepsBits m w (u &&& ~~~x) :=
  (keepsBits_iff _ _ _).2 fun k hk hw hm => by
    have clear := congrArg (fun v => BitVec.getLsbD v k) disjoint
    have kept := (keepsBits_iff _ _ _).1 h k hk hw hm
    simp only [BitVec.getLsbD_and, hm, Bool.true_and] at clear
    simp only [BitVec.getLsbD_and, BitVec.getLsbD_not, kept, clear, hk]
    simp

theorem KeepsBits.assignBit {m w u x : W32} (h : KeepsBits m w u) (disjoint : m &&& x = 0) (b : Bool) :
    KeepsBits m w (assignBit u x b) := by
  cases b
  · exact h.andNot disjoint
  · exact h.or x

theorem reserved_assignBit {w x m : W32} (hw : w &&& ~~~m = 0) (hx : x &&& ~~~m = 0) (b : Bool) :
    assignBit w x b &&& ~~~m = 0 := by
  cases b
  · exact reserved_and hw _
  · exact reserved_or hw hx

theorem bitSet_of_assignBit {w x bit : W32} (disjoint : x &&& bit = 0) {b : Bool}
    (h : bitSet (assignBit w x b) bit = true) : bitSet w bit = true := by
  cases b
  · exact bitSet_of_and h
  · exact (bitSet_or_of_disjoint w disjoint).symm.trans h

/-! ## BWE_STATUS after a command (10_state.md R26) -/

theorem bweStatusBit_reserved (c : Cond) : bweStatusBit c &&& ~~~bweStatusBits = 0 := by cases c <;> decide

theorem bweStatusBit_outValid (c : Cond) : bweStatusBit c &&& outValidBit = 0 := by cases c <;> decide

theorem bweStatusBit_resValid (c : Cond) : bweStatusBit c &&& resValidBit = 0 := by cases c <;> decide

section

variable (s : State) (b : Bool) (c : Cond)

theorem State.raiseBweIf_reserved (h : s.bweStatus &&& ~~~bweStatusBits = 0) :
    (s.raiseBweIf b c).bweStatus &&& ~~~bweStatusBits = 0 := by
  cases b
  · exact h
  · exact reserved_or h (bweStatusBit_reserved c)

theorem State.raiseBweIf_outValid :
    bitSet (s.raiseBweIf b c).bweStatus outValidBit = bitSet s.bweStatus outValidBit := by
  cases b
  · rfl
  · exact bitSet_or_of_disjoint _ (bweStatusBit_outValid c)

theorem State.raiseBweIf_keepsBits {m w : W32} (h : KeepsBits m w s.bweStatus) :
    KeepsBits m w (s.raiseBweIf b c).bweStatus := by
  cases b
  · exact h
  · exact h.or _

end

/-- BWE_STATUS after a calculation or an evaluation has recorded what it raised and set RES_VALID. -/
theorem State.calc_bweStatus (s : State) (env : CalcEnv) :
    ∃ dz ov, (s.calc env).bweStatus = ((s.raiseBweIf dz .dz).raiseBweIf ov .ov).bweStatus ||| resValidBit := by
  rw [State.calc]
  generalize (calcCore env (CalcState.start s.draws)).2 = c
  exact ⟨c.dz, c.ov, by simp⟩

theorem State.evaluate_bweStatus (s : State) (env : CalcEnv) :
    ∃ dz ov b, (s.evaluate env).bweStatus
      = assignBit (((s.raiseBweIf dz .dz).raiseBweIf ov .ov).bweStatus ||| resValidBit) supportedBit b ||| outValidBit := by
  rw [State.evaluate]
  generalize Machine.evaluate env (CalcState.start s.draws) = r
  exact ⟨r.2.dz, r.2.ov, r.1.supported, by simp⟩

theorem BweEffect.reserved {s t : State} {i : Instr} (effect : BweEffect s i t)
    (h : s.bweStatus &&& ~~~bweStatusBits = 0) : t.bweStatus &&& ~~~bweStatusBits = 0 := by
  have recorded (dz ov : Bool) :
      (((s.raiseBweIf dz .dz).raiseBweIf ov .ov).bweStatus ||| resValidBit) &&& ~~~bweStatusBits = 0 :=
    reserved_or (State.raiseBweIf_reserved _ _ _ (State.raiseBweIf_reserved _ _ _ h)) (by decide)
  cases effect with
  | idle | tables _ _ => exact h
  | illegal => exact reserved_or h (bweStatusBit_reserved .ill)
  | calculation env =>
    obtain ⟨dz, ov, status⟩ := s.calc_bweStatus env
    rw [status]
    exact recorded dz ov
  | nothing => exact reserved_or (reserved_assignBit h (by decide) true) (by decide)
  | evaluation env =>
    obtain ⟨dz, ov, b, status⟩ := s.evaluate_bweStatus env
    rw [status]
    exact reserved_or (reserved_assignBit (recorded dz ov) (by decide) b) (by decide)

theorem BweEffect.keepsSticky {s t : State} {i : Instr} (effect : BweEffect s i t) :
    KeepsBits bweStickyBits s.bweStatus t.bweStatus := by
  have same := KeepsBits.refl bweStickyBits s.bweStatus
  have recorded (dz ov : Bool) :
      KeepsBits bweStickyBits s.bweStatus (((s.raiseBweIf dz .dz).raiseBweIf ov .ov).bweStatus ||| resValidBit) :=
    (State.raiseBweIf_keepsBits _ _ _ (State.raiseBweIf_keepsBits _ _ _ same)).or _
  cases effect with
  | idle | tables _ _ => exact same
  | illegal => exact same.or _
  | calculation env =>
    obtain ⟨dz, ov, status⟩ := s.calc_bweStatus env
    rw [status]
    exact recorded dz ov
  | nothing => exact (same.assignBit (by decide) true).or _
  | evaluation env =>
    obtain ⟨dz, ov, b, status⟩ := s.evaluate_bweStatus env
    rw [status]
    exact ((recorded dz ov).assignBit (by decide) b).or _

/-! ## Sticky bits (10_state.md R29, 60_exceptions.md R294) -/

theorem exec_keepsSticky {i : Instr} {s t : State} (h : exec i s = .next t) :
    KeepsBits fxuStickyBits s.fxuStatus t.fxuStatus ∧ KeepsBits bweStickyBits s.bweStatus t.bweStatus := by
  cases unit : i.unit with
  | fxu =>
    obtain ⟨_, bweStatus, _, ⟨raised, _, fxuStatus⟩, _⟩ := exec_fxu_next unit h
    rw [bweStatus, fxuStatus]
    exact ⟨(KeepsBits.refl _ _).or raised, KeepsBits.refl _ _⟩
  | bwe =>
    have effect := exec_bwe_next unit h
    rw [effect.frame.fxuStatus]
    exact ⟨KeepsBits.refl _ _, effect.keepsSticky⟩

theorem State.raise_keepsSticky (s : State) (u : CmdUnit) (c : Cond) :
    KeepsBits fxuStickyBits s.fxuStatus (s.raise u c).fxuStatus
      ∧ KeepsBits bweStickyBits s.bweStatus (s.raise u c).bweStatus := by
  cases u
  · exact ⟨(KeepsBits.refl _ _).or _, KeepsBits.refl _ _⟩
  · exact ⟨KeepsBits.refl _ _, (KeepsBits.refl _ _).or _⟩

theorem WriteEffect.keepsSticky {s t : State} {offset : Nat} {v : W32} (h : WriteEffect s offset v t) :
    (offset ≠ 0x008 → KeepsBits fxuStickyBits s.fxuStatus t.fxuStatus)
      ∧ (offset ≠ 0x010 → KeepsBits bweStickyBits s.bweStatus t.bweStatus) := by
  have sameFxu := KeepsBits.refl fxuStickyBits s.fxuStatus
  have sameBwe := KeepsBits.refl bweStickyBits s.bweStatus
  cases h with
  | command u i _ ht =>
    obtain ⟨fxu, bwe⟩ := exec_keepsSticky ht
    exact ⟨fun _ => fxu, fun _ => bwe⟩
  | illegal u ht =>
    obtain ⟨fxu, bwe⟩ := s.raise_keepsSticky u .ill
    subst ht
    exact ⟨fun _ => fxu, fun _ => bwe⟩
  | fxuStatus h ht => subst ht; exact ⟨fun other => absurd h other, fun _ => sameBwe⟩
  | bweStatus h ht => subst ht; exact ⟨fun _ => sameFxu, fun other => absurd h other⟩
  | frHalf _ _ ht | record _ ht | ignored ht => subst ht; exact ⟨fun _ => sameFxu, fun _ => sameBwe⟩

/-- Settles O24: a command only sets sticky bits, and a host write clears those of its own register alone. -/
theorem stickyBitsStay : Obligations.StickyBitsStay := by
  intro s t e rest hp noReset hstep
  have same := And.intro (KeepsBits.refl fxuStickyBits s.fxuStatus) (KeepsBits.refl bweStickyBits s.bweStatus)
  cases step_next hstep with
  | idle h => rw [hp] at h; cases h
  | reset _ h => rw [hp] at h; exact absurd (List.cons.inj h).1 noReset
  | read a _ h ht =>
    subst ht
    exact ⟨fun _ => same.1, fun _ => same.2⟩
  | write a value _ h _ ht =>
    obtain ⟨fxu, bwe⟩ := ht.keepsSticky
    obtain rfl : e = .write a value := (List.cons.inj (hp.symm.trans h)).1
    exact ⟨fun other => fxu (other a value rfl), fun other => bwe (other a value rfl)⟩


/-! ## The records -/

/-- The canonical form of the record memory, inside the records. -/
def MemoryInv (m : Memory) : Prop := m.wf ∧ ∀ c ∈ m, inRecord c.1 = true

theorem MemoryInv.store {m : Memory} (h : MemoryInv m) {a : Nat} {bs : List Byte}
    (inside : ∀ x, a ≤ x → x < a + bs.length → inRecord x = true) : MemoryInv (m.store a bs) := by
  refine ⟨Memory.store_wf _ _ _ h.1, fun c hc => ?_⟩
  rcases Memory.mem_store m a bs c hc with old | ⟨lo, hi⟩
  · exact h.2 c old
  · exact inside c.1 lo hi

theorem MemoryInv.storeSlots {m : Memory} (h : MemoryInv m) {a : Nat} {ws : List W64}
    (inside : ∀ x, a ≤ x → x < a + 8 * ws.length → inRecord x = true) : MemoryInv (m.storeSlots a ws) :=
  h.store (by rwa [flatMap_bytesOfSlot_length])

theorem inRecord_iff (a : Nat) : inRecord a = true ↔ (0x1000 ≤ a ∧ a < 0x3000) ∨ (0x4000 ≤ a ∧ a < 0x8000) := by
  simp [inRecord]

theorem MemoryInv.storeResults {s : State} (h : MemoryInv s.mem) (r : Results) : MemoryInv (s.storeResults r).mem :=
  h.storeSlots fun x lo hi => by
    rw [Results.slots_length] at hi
    simp only [slotOffset, resultsBase] at lo hi
    exact (inRecord_iff x).2 (by omega)

theorem MemoryInv.storeOutput {s : State} (h : MemoryInv s.mem) {o : Output} (marks : o.marks.length = 72) :
    MemoryInv (s.storeOutput o).mem := by
  refine (h.storeSlots fun x lo hi => ?_).storeSlots fun x lo hi => ?_
  · rw [Output.scalars_length] at hi
    simp only [slotOffset, outputBase] at lo hi
    exact (inRecord_iff x).2 (by omega)
  · rw [marks] at hi
    simp only [slotOffset, outputBase] at lo hi
    exact (inRecord_iff x).2 (by omega)

theorem MemoryInv.loadTables {s : State} (h : MemoryInv s.mem) (version : BitVec 4) (stoney : Bool) :
    MemoryInv (s.loadTables version stoney).mem := by
  refine (h.storeSlots fun x lo hi => ?_).storeSlots fun x lo hi => ?_
  · rw [initDceip_length] at hi
    simp only [slotOffset, dceipBase] at lo hi
    exact (inRecord_iff x).2 (by omega)
  · rw [initVbios_length] at hi
    simp only [slotOffset, vbiosBase] at lo hi
    exact (inRecord_iff x).2 (by omega)

/-! What RES_VALID and OUT_VALID promise. -/

/-- Every RESULTS slot holds a value. -/
def ResultsWritten (m : Memory) : Prop := m.slotsWritten resultsBase 2048

/-- Every OUTPUT slot that BWCALCS writes holds a value. -/
def OutputWritten (m : Memory) : Prop := ∀ k, k < 80 → k ≠ 7 → (m.slot (slotOffset outputBase k)).isSome

theorem ResultsWritten.store {m : Memory} (h : ResultsWritten m) (a : Nat) (bs : List Byte) : ResultsWritten (m.store a bs) :=
  fun k hk => Memory.slot_store_isSome m a _ bs (h k hk)

theorem OutputWritten.store {m : Memory} (h : OutputWritten m) (a : Nat) (bs : List Byte) : OutputWritten (m.store a bs) :=
  fun k hk hk7 => Memory.slot_store_isSome m a _ bs (h k hk hk7)

theorem resultsWritten_storeResults (s : State) (r : Results) : ResultsWritten (s.storeResults r).mem := fun k hk =>
  Option.isSome_iff_exists.2 ⟨_, slot_storeResults s r k hk⟩

theorem outputWritten_storeOutput (s : State) {o : Output} (marks : o.marks.length = 72) :
    OutputWritten (s.storeOutput o).mem := by
  intro k hk hk7
  rcases Nat.lt_or_gt_of_ne hk7 with scalar | mark
  · exact Option.isSome_iff_exists.2 ⟨_, slot_storeOutput_scalar s o k scalar⟩
  · have stored := slot_storeOutput_mark s o (k - 8) (by omega)
    rw [show 8 + (k - 8) = k by omega] at stored
    exact Option.isSome_iff_exists.2 ⟨_, stored⟩

theorem ResultsWritten.storeOutput {s : State} (h : ResultsWritten s.mem) (o : Output) :
    ResultsWritten (s.storeOutput o).mem := (h.store _ _).store _ _

/-! ## What a BWE command keeps -/

theorem BweEffect.memoryInv {s t : State} {i : Instr} (effect : BweEffect s i t) (h : MemoryInv s.mem) :
    MemoryInv t.mem := by
  cases effect with
  | idle | illegal => exact h
  | tables version stoney => exact h.loadTables version stoney
  | calculation env => rw [State.calc_mem]; exact h.storeResults _
  | nothing => exact h.storeOutput zeroDisplayOutput_marks_length
  | evaluation env => rw [State.evaluate_mem]; exact (h.storeResults _).storeOutput (evaluate_marks_length _ _)

theorem BweEffect.resultsWritten {s t : State} {i : Instr} (effect : BweEffect s i t)
    (h : bitSet s.bweStatus resValidBit = true → ResultsWritten s.mem) (valid : bitSet t.bweStatus resValidBit = true) :
    ResultsWritten t.mem := by
  cases effect with
  | idle => exact h valid
  | illegal => exact h ((bitSet_or_of_disjoint _ (bweStatusBit_resValid .ill)).symm.trans valid)
  | tables version stoney => exact ((h valid).store _ _).store _ _
  | calculation env => rw [State.calc_mem]; exact resultsWritten_storeResults s _
  | nothing =>
    have before := (bitSet_or_of_disjoint _ (by decide : outValidBit &&& resValidBit = 0)).symm.trans valid
    exact (h (bitSet_of_assignBit (by decide) before)).storeOutput _
  | evaluation env => rw [State.evaluate_mem]; exact (resultsWritten_storeResults s _).storeOutput _

theorem BweEffect.outputWritten {s t : State} {i : Instr} (effect : BweEffect s i t)
    (h : bitSet s.bweStatus outValidBit = true → OutputWritten s.mem) (valid : bitSet t.bweStatus outValidBit = true) :
    OutputWritten t.mem := by
  cases effect with
  | idle => exact h valid
  | illegal => exact h ((bitSet_or_of_disjoint _ (bweStatusBit_outValid .ill)).symm.trans valid)
  | tables version stoney => exact ((h valid).store _ _).store _ _
  | calculation env =>
    obtain ⟨dz, ov, status⟩ := s.calc_bweStatus env
    rw [status, bitSet_or_of_disjoint _ (by decide : resValidBit &&& outValidBit = 0), State.raiseBweIf_outValid,
      State.raiseBweIf_outValid] at valid
    rw [State.calc_mem]
    exact (h valid).store _ _
  | nothing => exact outputWritten_storeOutput s zeroDisplayOutput_marks_length
  | evaluation env => rw [State.evaluate_mem]; exact outputWritten_storeOutput _ (evaluate_marks_length _ _)

/-- BWE_VERSION is as reset or an INIT leaves it: reserved bits clear, nothing without LOADED, STONEY_REV for version 1 alone. -/
def VersionInv (w : W32) : Prop :=
  w &&& ~~~(0x3F : W32) = 0 ∧ (bitSet w 0x20 = false → w = 0) ∧ (bitSet w 0x10 = true → w &&& 0xF = 1)

theorem versionInv_versionWord (version : BitVec 4) (stoney : Bool) :
    VersionInv (versionWord version (stoney && version == 1)) := by
  revert version stoney
  unfold VersionInv
  decide

theorem BweEffect.versionInv {s t : State} {i : Instr} (effect : BweEffect s i t) (h : VersionInv s.bweVersion) :
    VersionInv t.bweVersion := by
  cases effect with
  | idle | illegal => exact h
  | tables version stoney => exact versionInv_versionWord version stoney
  | calculation env => simpa [State.calc] using h
  | nothing => exact h
  | evaluation env => simpa [State.evaluate] using h

/-! ## The invariant -/

theorem inv_iff (s : State) :
    Inv s ↔ MemoryInv s.mem ∧ s.fxuStatus &&& ~~~fxuStickyBits = 0 ∧ s.bweStatus &&& ~~~bweStatusBits = 0
      ∧ VersionInv s.bweVersion ∧ (bitSet s.bweStatus resValidBit = true → ResultsWritten s.mem)
      ∧ (bitSet s.bweStatus outValidBit = true → OutputWritten s.mem) :=
  ⟨fun ⟨wf, inRecords, fxu, bwe, v1, v2, v3, results, output⟩ =>
      ⟨⟨wf, inRecords⟩, fxu, bwe, ⟨v1, v2, v3⟩, results, output⟩,
    fun ⟨⟨wf, inRecords⟩, fxu, bwe, ⟨v1, v2, v3⟩, results, output⟩ =>
      ⟨wf, inRecords, fxu, bwe, v1, v2, v3, results, output⟩⟩

/-- The invariant speaks of the records and the control registers alone. -/
theorem Inv.of_same {s t : State} (h : Inv s) (mem : t.mem = s.mem) (fxu : t.fxuStatus = s.fxuStatus)
    (bwe : t.bweStatus = s.bweStatus) (version : t.bweVersion = s.bweVersion) : Inv t := by
  rw [inv_iff] at h ⊢
  rwa [mem, fxu, bwe, version]

theorem Inv.exec {i : Instr} {s t : State} (h : Inv s) (run : exec i s = .next t) : Inv t := by
  obtain ⟨memory, fxu, bwe, version, results, output⟩ := (inv_iff s).1 h
  cases unit : i.unit with
  | fxu =>
    obtain ⟨mem, bweStatus, bweVersion, ⟨raised, sticky, fxuStatus⟩, _⟩ := exec_fxu_next unit run
    rw [inv_iff, mem, bweStatus, bweVersion, fxuStatus]
    exact ⟨memory, reserved_or fxu sticky, bwe, version, results, output⟩
  | bwe =>
    have effect := exec_bwe_next unit run
    rw [inv_iff, effect.frame.fxuStatus]
    exact ⟨effect.memoryInv memory, fxu, effect.reserved bwe, effect.versionInv version, effect.resultsWritten results,
      effect.outputWritten output⟩

theorem Inv.raise_ill {s : State} (h : Inv s) (u : CmdUnit) : Inv (s.raise u .ill) := by
  obtain ⟨memory, fxu, bwe, version, results, output⟩ := (inv_iff s).1 h
  rw [inv_iff]
  cases u with
  | fxu => exact ⟨memory, reserved_or fxu (by decide), bwe, version, results, output⟩
  | bwe =>
    have effect : BweEffect s .bweCalc (s.raiseBwe .ill) := .illegal _
    exact ⟨memory, fxu, effect.reserved bwe, version, effect.resultsWritten results, effect.outputWritten output⟩

theorem Inv.writeEffect {s t : State} {offset : Nat} {v : W32} (h : Inv s) (h4 : offset % 4 = 0)
    (effect : WriteEffect s offset v t) : Inv t := by
  obtain ⟨memory, fxu, bwe, version, results, output⟩ := (inv_iff s).1 h
  cases effect with
  | command u i _ run => exact h.exec run
  | illegal u ht => subst ht; exact h.raise_ill u
  | fxuStatus _ ht =>
    subst ht
    exact (inv_iff _).2 ⟨memory, reserved_and fxu _, bwe, version, results, output⟩
  | bweStatus _ ht =>
    subst ht
    exact (inv_iff _).2 ⟨memory, fxu, reserved_and bwe _, version, fun valid => results (bitSet_of_and valid),
      fun valid => output (bitSet_of_and valid)⟩
  | frHalf r high ht => subst ht; exact h.of_same rfl rfl rfl rfl
  | record inside ht =>
    subst ht
    have stored : MemoryInv (s.mem.store offset (bytesOfWord v)) := memory.store fun x lo hi => by
      rw [inRecord_iff] at inside ⊢
      rw [bytesOfWord_length] at hi
      omega
    exact (inv_iff _).2
      ⟨stored, fxu, bwe, version, fun valid => (results valid).store _ _, fun valid => (output valid).store _ _⟩
  | ignored ht => subst ht; exact h

/-- A state with nothing in the records and clear control registers. -/
theorem Inv.of_clear {s : State} (mem : s.mem = []) (fxu : s.fxuStatus = 0) (bwe : s.bweStatus = 0)
    (version : s.bweVersion = 0) : Inv s := by
  rw [inv_iff, mem, fxu, bwe, version]
  refine ⟨⟨Memory.reset_wf, by simp⟩, by decide, by decide, ?_, fun valid => ?_, fun valid => ?_⟩
  · unfold VersionInv
    decide
  · exact absurd valid (by decide)
  · exact absurd valid (by decide)

/-- Settles O34: nothing is written and no bit is set. -/
theorem invReset : Obligations.InvReset := Inv.of_clear rfl rfl rfl rfl

/-- Settles O33, by what a step can have done: a read, a reset, or a write, which may execute a command. -/
theorem invStep : Obligations.InvStep := by
  intro s t h hstep
  cases step_next hstep with
  | idle _ ht => subst ht; exact h
  | read a rest _ ht => subst ht; exact h.of_same rfl rfl rfl rfl
  | write a value rest _ h4 ht =>
    have before : Inv ({ s with pending := rest } : State).beginWrite := h.of_same rfl rfl rfl rfl
    exact before.writeEffect h4 ht
  | reset rest _ ht => subst ht; exact Inv.of_clear rfl rfl rfl rfl

end Sys2Proof.Machine
end

section
/-!
Single host accesses: what a read gives back, what a write to a status register, a half of FRn or a record changes, and which
accesses are refused (20_memory.md).
-/

namespace Sys2Proof.Machine

/-! ## Reads (20_memory.md R77) -/

theorem State.readWindow_frLow (s : State) (r : Reg) (written : s.fr[r].loWritten = true) :
    s.readWindow (0x100 + 8 * r.val) = lowHalf (s.frValue r) := by
  rw [State.readWindow, targetOf_frLow]
  simp only [State.readFrHalf, written]
  rfl

theorem State.readWindow_frHigh (s : State) (r : Reg) (written : s.fr[r].hiWritten = true) :
    s.readWindow (0x104 + 8 * r.val) = highHalf (s.frValue r) := by
  rw [State.readWindow, targetOf_frHigh]
  simp only [State.readFrHalf, written]
  rfl

theorem State.readWindow_record (s : State) {offset : Nat} (inside : inRecord offset = true) {w : W32}
    (stored : s.mem.word offset = some w) : s.readWindow offset = w := by
  rw [State.readWindow, targetOf_record offset inside]
  simp only [State.readRecord, stored, Option.getD_some]

/-- Settles O27: the value of a read is what the map selects, and a read leaves the rest of the state. -/
theorem hostReads : Obligations.HostReads := by
  intro s rest offset hp h4 hw
  refine ⟨s.readWindow offset, step_read s rest offset hp h4 hw, ?_, ?_, ?_, ?_, ?_, ?_, ?_⟩
  · rintro rfl; exact State.readWindow_blkId s
  · rintro rfl; rfl
  · rintro rfl; rfl
  · rintro rfl; rfl
  · rintro r rfl written; exact s.readWindow_frLow r written
  · rintro r rfl written; exact s.readWindow_frHigh r written
  · intro w inside stored; exact s.readWindow_record inside stored

/-! ## Writes of status registers (10_state.md R24, R26, R80) -/

theorem getLsbD_writeOneToClear (mask old value : W32) (k : Nat) :
    (writeOneToClear mask old value).getLsbD k = (old.getLsbD k && !(mask.getLsbD k && value.getLsbD k)) := by
  rcases Nat.lt_or_ge k 32 with hk | hk
  · simp [writeOneToClear, hk, Bool.and_comm]
  · simp [BitVec.getLsbD_of_ge _ _ hk]

theorem getLsbD_fxuStatusW1cMask : ∀ k, k < 32 → fxuStatusW1cMask.getLsbD k = decide (k ≤ 2) := by decide

theorem getLsbD_bweStatusW1cMask : ∀ k, k < 32 → bweStatusW1cMask.getLsbD k = decide (1 ≤ k ∧ k ≤ 3) := by decide

/-! ## Writes of one half of FRn (43_fxu_move.md R184) -/

theorem State.fr_writeFrHalf_self (s : State) (r : Reg) (high : Bool) (v : W32) :
    (s.writeFrHalf r high v).fr[r] = if high then s.fr[r].withHigh v else s.fr[r].withLow v := by
  simp

theorem State.fr_writeFrHalf_other (s : State) {r q : Reg} (h : q ≠ r) (high : Bool) (v : W32) :
    (s.writeFrHalf r high v).fr[q] = s.fr[q] := by
  have distinct : (r : Nat) ≠ q := fun e => h (Fin.ext e.symm)
  simp [distinct]

theorem step_writeFrHalf (s : State) (rest : List HostEvent) (r : Reg) (high : Bool) {offset : Nat} (v : W32)
    (hp : s.pending = w32 offset v :: rest) (h4 : offset % 4 = 0) (hw : offset < 0x8000)
    (target : targetOf offset = .frHalf r high) :
    step s = .next (({ s with pending := rest } : State).beginWrite.writeFrHalf r high v) := by
  rw [step_write s rest offset v hp h4 hw, State.writeWindow, target]
  rfl

/-- Settles O30: the map sends the two offsets of FRn to its two halves. -/
theorem hostWritesFrHalf : Obligations.HostWritesFrHalf := by
  intro s rest r v
  have bound := r.isLt
  constructor
  · intro hp
    have half := ({ s with pending := rest } : State).beginWrite.fr_writeFrHalf_self r false v
    refine ⟨_, step_writeFrHalf s rest r false v hp (by omega) (by omega) (targetOf_frLow r), congrArg FReg.value half,
      congrArg FReg.loWritten half, (congrArg FReg.hiWritten half).trans rfl, fun q hq => ?_, rfl, rfl, rfl, fun _ => rfl⟩
    exact State.fr_writeFrHalf_other _ hq false v
  · intro hp
    have half := ({ s with pending := rest } : State).beginWrite.fr_writeFrHalf_self r true v
    refine ⟨_, step_writeFrHalf s rest r true v hp (by omega) (by omega) (targetOf_frHigh r), congrArg FReg.value half,
      congrArg FReg.hiWritten half, (congrArg FReg.loWritten half).trans rfl, fun q hq => ?_, rfl, rfl, rfl, fun _ => rfl⟩
    exact State.fr_writeFrHalf_other _ hq true v

/-! ## Writes of a record (20_memory.md R71, R76) -/

theorem bytesOfWord_getElem (w : W32) : ∀ i (hi : i < (bytesOfWord w).length),
    (bytesOfWord w)[i] = w.extractLsb' (8 * i) 8
  | 0, _ | 1, _ | 2, _ | 3, _ => rfl

/-- Settles O31: a write of a record stores the bytes of the word, and a store is read back where it lies. -/
theorem hostWritesRecord : Obligations.HostWritesRecord := by
  intro s rest offset v hp h4 inside
  have window : offset < 0x8000 := by
    rw [inRecord_iff] at inside
    omega
  have runs : step s = .next { ({ s with pending := rest } : State).beginWrite with
      mem := s.mem.store offset (bytesOfWord v) } := by
    rw [step_write s rest offset v hp h4 window, State.writeWindow, targetOf_record offset inside]
    rfl
  refine ⟨_, runs, fun i hi => ?_, fun a outside => ?_, Memory.word_store_word _ _ _, fun _ => rfl, rfl, rfl, rfl, rfl⟩
  · exact (Memory.read_store_inside s.mem offset (bytesOfWord v) i hi).trans
      (congrArg some (bytesOfWord_getElem v i hi))
  · exact Memory.read_store_outside s.mem offset (bytesOfWord v) a outside

/-! ## Refusals (20_memory.md R72, R81) -/

theorem step_of_stop {s : State} {rest : List HostEvent} {a : Access} {v : W64}
    (hp : s.pending = .read a :: rest ∨ s.pending = .write a v :: rest) {stop : Served} (hs : a.stop = some stop) :
    step s = stop.outcome := by
  rcases hp with hp | hp <;> simp only [step, hp, State.serve, hs]

theorem Access.stop_of_other {a : Access} (h : a.agent = .other) : a.stop = some (.refused .secondAgent) := by
  rw [Access.stop, if_pos h]

theorem Access.stop_of_misshapen {a : Access} (owner : a.agent = .owner) (h : a.width ≠ .w32 ∨ a.offset % 4 ≠ 0) :
    a.stop = some (.refused (.badAccess a)) := by
  have shape : a.aligned32 = false := by
    rw [Bool.eq_false_iff]
    simpa [Access.aligned32, imp_iff_not_or] using h
  rw [Access.stop, if_neg (by rw [owner]; decide), if_pos (by rw [shape]; rfl)]

/-- Settles O32: the two stops are those of the agent and of the shape. -/
theorem refusedAccesses : Obligations.RefusedAccesses := by
  intro s rest a v hp
  exact ⟨fun owner misshapen => step_of_stop hp (Access.stop_of_misshapen owner misshapen),
    fun other => step_of_stop hp (Access.stop_of_other other)⟩

end Sys2Proof.Machine

namespace Sys2Proof

open Machine in
/-- Settles O29: the mask of each status register is bits 2:0, or bits 3:1. -/
theorem writeOneToClear : Obligations.WriteOneToClear := by
  intro s rest v
  constructor
  · intro hp
    refine ⟨_, step_write s rest 0x008 v hp (by decide) (by decide), fun k hk => ?_, rfl, rfl, fun _ => rfl, fun _ => rfl⟩
    rw [← getLsbD_fxuStatusW1cMask k hk]
    exact getLsbD_writeOneToClear fxuStatusW1cMask s.fxuStatus v k
  · intro hp
    refine ⟨_, step_write s rest 0x010 v hp (by decide) (by decide), fun k hk => ?_, rfl, rfl, fun _ => rfl, fun _ => rfl⟩
    rw [← getLsbD_bweStatusW1cMask k hk]
    exact getLsbD_writeOneToClear bweStatusW1cMask s.bweStatus v k

end Sys2Proof
end

section
/-!
FXU commands in the terms of their rules (files 40 to 43 of spec/): each command is its one word and its result, and each result is
the rule's formula.
-/

namespace Sys2Proof.Machine

/-! ## A command and its result -/

/-- The word `w` is the command `i` alone, and `i` retires the result `x` to FRrd. -/
def Computes (w : W32) (i : Instr) (s : State) (rd : Reg) (x : FxResult) : Prop :=
  ∃ t, FxuExecutes w i s t rd (x.valueAt s.draws) x.raised

section

variable {op : BitVec 6} {i : Instr} {s : State} {rd rs1 rs2 : Reg}

theorem computes_fxu2 {f : W64 → W64 → FxResult} (unit : i.unit = .fxu) (word : encode i = encodeR3 op rd rs1 rs2)
    (runs : exec i s = .next (s.fxu2 f rd rs1 rs2)) :
    Computes (fxuWordR op.toNat rd rs1 rs2) i s rd (f (s.frValue rs1) (s.frValue rs2)) :=
  ⟨_, onlyWord_encode unit ((fxuWordR_eq op rd rs1 rs2).trans word.symm), runs, s.fxu2_writes f rd rs1 rs2⟩

theorem computes_fxu1 {f : W64 → FxResult} (unit : i.unit = .fxu) (word : encode i = encodeR2 op rd rs1)
    (runs : exec i s = .next (s.fxu1 f rd rs1)) :
    Computes (fxuWordR op.toNat rd rs1 0) i s rd (f (s.frValue rs1)) :=
  ⟨_, onlyWord_encode unit ((fxuWordR_eq_r2 op rd rs1).trans word.symm), runs, s.fxu1_writes f rd rs1⟩

variable {w : W32} {x : FxResult} {v : W64}

theorem Computes.exact (h : Computes w i s rd x) (result : x = .exact v) : ∃ t, FxuExecutes w i s t rd v 0 := by
  subst result; exact h

theorem Computes.divByZero (h : Computes w i s rd x) (result : x = .divByZero) : ∃ t v, FxuExecutes w i s t rd v dzBit := by
  subst result
  obtain ⟨t, ht⟩ := h
  exact ⟨t, _, ht⟩

/-- A result raises OV exactly where its test holds, and nothing else. -/
def FxResult.TestedFor (x : FxResult) (v : W64) (p : Prop) [Decidable p] : Prop :=
  x = Fx.withOv (decide p) v

theorem Computes.tested (h : Computes w i s rd x) {p : Prop} [Decidable p] (result : x.TestedFor v p) :
    ∃ t, FxuExecutes w i s t rd v (ovIf p) := by
  obtain ⟨t, ht⟩ := h
  rw [FxResult.TestedFor] at result
  rw [result, Fx.valueAt_withOv, Fx.raised_withOv] at ht
  have bits : (if decide p = true then fxuStatusBit .ov else 0) = ovIf p := by simp [ovIf, fxuStatusBit]
  rw [bits] at ht
  exact ⟨t, ht⟩

end

theorem FxResult.testedFor_withOv {ov : Bool} {v v' : W64} {p : Prop} [Decidable p] (value : v = v')
    (test : ov = true ↔ p) : (Fx.withOv ov v).TestedFor v' p := by
  have : ov = decide p := by simp [← test]
  rw [FxResult.TestedFor, this, value]

theorem FxResult.testedFor_narrow (n : Int) {p : Prop} [Decidable p] (test : ¬(-2 ^ 63 ≤ n ∧ n < 2 ^ 63) ↔ p) :
    (Fx.narrow n).TestedFor (BitVec.ofInt 64 n) p :=
  testedFor_withOv rfl (by rw [← test]; simp only [fits64, Bool.not_eq_true', decide_eq_false_iff_not]; omega)

/-! ## ADD, SUB, NEG, ABS (40_fxu_arith.md R110 to R113) -/

/-- Settles O7: both narrow the exact integer. -/
theorem addSub : Obligations.AddSub := by
  intro rd rs1 rs2 s a b
  exact ⟨(computes_fxu2 (op := 0x01) (f := Fx.add) rfl rfl rfl).tested (FxResult.testedFor_narrow (a + b) Iff.rfl),
    (computes_fxu2 (op := 0x02) (f := Fx.sub) rfl rfl rfl).tested (FxResult.testedFor_narrow (a - b) Iff.rfl)⟩

/-- Settles O8: of the words' integers, -2^63 alone has no negative and no magnitude among them. -/
theorem negAbs : Obligations.NegAbs := by
  intro rd rs1 s a
  have lower : -2 ^ 63 ≤ a := BitVec.le_toInt _
  have upper : a < 2 ^ 63 := BitVec.toInt_lt
  exact ⟨(computes_fxu1 (op := 0x06) (f := Fx.neg) rfl rfl rfl).tested (FxResult.testedFor_narrow (-a) (by omega)),
    (computes_fxu1 (op := 0x07) (f := Fx.abs) rfl rfl rfl).tested (FxResult.testedFor_narrow a.natAbs (by omega))⟩

/-! ## MUL, DIV, FROMFRAC, MOD (R114 to R117, R143) -/

theorem Fx.signed_eq_withSigns (a b : W64) (magnitude : Nat) :
    Fx.signed (Fx.signsDiffer a b) magnitude = withSigns a.toInt b.toInt magnitude := by
  have sign : Fx.signsDiffer a b = true ↔ (a.toInt < 0) ≠ (b.toInt < 0) := by simp [Fx.signsDiffer]
  have wrapped : Fx.wrap magnitude = BitVec.ofNat 64 magnitude := by simp [Fx.wrap]
  rw [Fx.signed, withSigns, wrapped]
  simp only [sign, Fx.wrap, BitVec.ofInt_neg, BitVec.ofInt_toInt]

/-- The product of the integer parts, by shifts (R114). -/
theorem Fx.mulIntProduct_eq (A B : Nat) : Fx.mulIntProduct A B = (A >>> 24) * (B >>> 24) := by
  simp only [Nat.shiftRight_eq_div_pow]
  rfl

/-- The magnitude sum, by shifts and masks (R114). -/
theorem Fx.mulSum_eq (A B : Nat) :
    Fx.mulSum A B = (A >>> 24) * (B >>> 24) * 2 ^ 24 + (A >>> 24) * (B &&& (2 ^ 24 - 1)) + (B >>> 24) * (A &&& (2 ^ 24 - 1))
      + (((A &&& (2 ^ 24 - 1)) * (B &&& (2 ^ 24 - 1))) >>> 24)
      + if (A &&& (2 ^ 24 - 1)) * (B &&& (2 ^ 24 - 1)) ≥ 2 ^ 23 then 1 else 0 := by
  simp only [Nat.shiftRight_eq_div_pow, Nat.and_two_pow_sub_one_eq_mod]
  rfl

theorem mulOverflows_iff (product sum : Nat) :
    mulOverflows product sum = true ↔ product ≥ 2 ^ 39 ∨ sum > 2 ^ 63 - 1 := by
  have test : mulOverflows product sum = (decide (2 ^ 39 ≤ product) || decide (0x7FFFFFFFFFFFFFFF < sum)) := rfl
  rw [test, Bool.or_eq_true, decide_eq_true_iff, decide_eq_true_iff]
  omega

/-- Settles O9: the model's quotients and remainders by 2^24 are the rule's shifts and masks. -/
theorem mulResult : Obligations.MulResult := by
  intro rd rs1 rs2 s a b ai af bi bf p S
  refine (computes_fxu2 (op := 0x03) (f := Fx.mul) rfl rfl rfl).tested (FxResult.testedFor_withOv ?_ ?_)
  · rw [Fx.signed_eq_withSigns, Fx.mulSum_eq]
    rfl
  · rw [mulOverflows_iff, Fx.mulIntProduct_eq, Fx.mulSum_eq]
    rfl

theorem Fx.fracMagnitude_eq (n d : W64) : Fx.fracMagnitude (Fx.mag n) (Fx.mag d) = roundedQuotient n.toInt d.toInt := by
  have remainder : Fx.mag n * 2 ^ 24 % Fx.mag d = Fx.mag n * 2 ^ 24 - Fx.mag n * 2 ^ 24 / Fx.mag d * Fx.mag d := by
    rw [Nat.mod_eq_sub, Nat.mul_comm (Fx.mag d)]
  have scale : Fx.scale = 2 ^ 24 := rfl
  rw [Fx.fracMagnitude, scale, remainder]
  exact add_ite _ _ _ _

theorem fracOverflows_iff (magnitude : Nat) : fracOverflows magnitude = true ↔ magnitude ≥ 2 ^ 63 := by
  simp [fracOverflows]

theorem Fx.frac_tested (n d : W64) (h : d ≠ 0) : (Fx.frac n d).TestedFor
    (withSigns n.toInt d.toInt (roundedQuotient n.toInt d.toInt)) (roundedQuotient n.toInt d.toInt ≥ 2 ^ 63) := by
  rw [Fx.frac, if_neg h, Fx.fracMagnitude_eq]
  exact FxResult.testedFor_withOv (Fx.signed_eq_withSigns n d _) (fracOverflows_iff _)

theorem Fx.frac_zero {n d : W64} (h : d = 0) : Fx.frac n d = .divByZero := if_pos h

/-- Settles O10: DIV and FROMFRAC are FRAC of the two words, MOD is the remainder of their bits. -/
theorem divFromfracMod : Obligations.DivFromfracMod := by
  intro rd rs1 rs2 s a b n d
  have div : Computes (fxuWordR 0x04 rd rs1 rs2) (.div rd rs1 rs2) s rd (Fx.frac a b) :=
    computes_fxu2 (op := 0x04) (f := Fx.div) rfl rfl rfl
  have fromfrac : Computes (fxuWordR 0x0B rd rs1 rs2) (.fromfrac rd rs1 rs2) s rd (Fx.frac a b) :=
    computes_fxu2 (op := 0x0B) (f := Fx.fromFrac) rfl rfl rfl
  have mod : Computes (fxuWordR 0x05 rd rs1 rs2) (.mod rd rs1 rs2) s rd (Fx.mod a b) :=
    computes_fxu2 (op := 0x05) (f := Fx.mod) rfl rfl rfl
  exact ⟨fun h => ⟨div.tested (Fx.frac_tested a b h), fromfrac.tested (Fx.frac_tested a b h), mod.exact (if_neg h)⟩,
    fun h => ⟨div.divByZero (Fx.frac_zero h), fromfrac.divByZero (Fx.frac_zero h), mod.divByZero (if_pos h)⟩⟩

/-! ## FLOOR and CEIL (41_fxu_rounding.md R139 to R141) -/

theorem Fx.towardZero_eq (a b : W64) : Fx.towardZero a (Fx.mag b)
    = BitVec.ofInt 64 (b.toInt.natAbs * a.toInt.tdiv (BitVec.ofNat 64 b.toInt.natAbs).toInt) := by
  have wrapped : Fx.wrap (Fx.mag b : Nat) = BitVec.ofNat 64 b.toInt.natAbs := BitVec.ofInt_natCast 64 _
  rw [Fx.towardZero, Fx.multiples, wrapped]
  rfl

theorem natAbs_toInt_eq_zero_iff (b : W64) : b.toInt.natAbs = 0 ↔ b = 0 := Fx.mag_eq_zero b

/-- Settles O11: FLOOR is the multiple toward zero, and CEIL narrows one step more where that multiple lies below. -/
theorem floorCeil : Obligations.FloorCeil := by
  intro rd rs1 rs2 s a q m r e
  have floor : Computes (fxuWordR 0x08 rd rs1 rs2) (.floor rd rs1 rs2) s rd (Fx.floor (s.frValue rs1) (s.frValue rs2)) :=
    computes_fxu2 (op := 0x08) (f := Fx.floor) rfl rfl rfl
  have ceil : Computes (fxuWordR 0x09 rd rs1 rs2) (.ceil rd rs1 rs2) s rd (Fx.ceil (s.frValue rs1) (s.frValue rs2)) :=
    computes_fxu2 (op := 0x09) (f := Fx.ceil) rfl rfl rfl
  have multiple : Fx.towardZero (s.frValue rs1) (Fx.mag (s.frValue rs2)) = r := Fx.towardZero_eq _ _
  have zero : q = 0 ↔ s.frValue rs2 = 0 := natAbs_toInt_eq_zero_iff _
  rw [Fx.floor, multiple] at floor
  simp only [Fx.ceil, multiple] at ceil
  constructor
  · intro nonzero
    rw [if_neg fun h => nonzero (zero.2 h)] at floor ceil
    refine ⟨floor.exact rfl, ceil.tested ?_⟩
    by_cases below : r.toInt.natAbs < a.natAbs
    · have step : (if Fx.mag r < Fx.mag (s.frValue rs1) then Fx.narrow (Fx.stepAway (s.frValue rs1) r (Fx.mag (s.frValue rs2)))
          else FxResult.exact r) = Fx.narrow e := if_pos below
      simp only [step, if_pos below]
      exact FxResult.testedFor_narrow e (by simp [below])
    · have stay : (if Fx.mag r < Fx.mag (s.frValue rs1) then Fx.narrow (Fx.stepAway (s.frValue rs1) r (Fx.mag (s.frValue rs2)))
          else FxResult.exact r) = Fx.withOv false r := if_neg below
      simp only [stay, if_neg below]
      exact FxResult.testedFor_withOv rfl (by simp [below])
  · intro hq
    rw [if_pos (zero.1 hq)] at floor ceil
    exact ⟨floor.divByZero rfl, ceil.divByZero rfl⟩

/-! ## FROMINT and TOINT (41_fxu_rounding.md R142, R144) -/

theorem fromIntOverflows_iff (v : Int) : fromIntOverflows v = true ↔ ¬(-2 ^ 39 < v ∧ v < 2 ^ 39 - 1) := by
  have test : fromIntOverflows v = !decide (-2 ^ 39 < v ∧ v < 2 ^ 39 - 1) := rfl
  rw [test, Bool.not_eq_true', decide_eq_false_iff_not]

theorem Fx.fromInt_tested (v : W64) : (Fx.fromInt v).TestedFor (BitVec.ofInt 64 (v.toInt * 2 ^ 24))
    (¬(-2 ^ 39 < v.toInt ∧ v.toInt < 2 ^ 39 - 1)) :=
  FxResult.testedFor_withOv rfl (fromIntOverflows_iff _)

theorem Fx.integerPart_eq (a : W64) : Fx.integerPart a = a.toInt >>> 24 := by
  rw [Fx.integerPart, Int.fdiv_eq_ediv_of_nonneg _ (Int.natCast_nonneg _)]
  exact ((Int.shiftRight_natCast_right a.toInt 24).trans (Int.shiftRight_eq_div_pow a.toInt 24)).symm

theorem Fx.toInt_tested (a : W64) : (Fx.toInt a).TestedFor (BitVec.ofInt 64 ((a.toInt >>> 24).bmod (2 ^ 32)))
    (¬(-2 ^ 31 ≤ a.toInt >>> 24 ∧ a.toInt >>> 24 < 2 ^ 31)) := by
  rw [Fx.toInt, Fx.integerPart_eq]
  refine FxResult.testedFor_withOv ?_ (by simp only [toIntOverflows, Bool.not_eq_true', decide_eq_false_iff_not]; rfl)
  rw [BitVec.signExtend, BitVec.toInt_ofInt]

/-- Settles O13. -/
theorem fromintToint : Obligations.FromintToint := by
  intro rd rs1 s v i
  exact ⟨(computes_fxu1 (op := 0x0A) (f := Fx.fromInt) rfl rfl rfl).tested (Fx.fromInt_tested _),
    (computes_fxu1 (op := 0x0C) (f := Fx.toInt) rfl rfl rfl).tested (Fx.toInt_tested _)⟩

/-! ## MIN, MAX and the comparisons (42_fxu_select_compare.md) -/

section

variable {op : BitVec 6} {i : Instr} {s : State} {rd rs1 rs2 : Reg}

theorem executes_select2 {f : W64 → W64 → W64} (unit : i.unit = .fxu) (word : encode i = encodeR3 op rd rs1 rs2)
    (runs : exec i s = .next (s.select2 f rd rs1 rs2)) {v : W64} (value : f (s.frValue rs1) (s.frValue rs2) = v) :
    ∃ t, FxuExecutes (fxuWordR op.toNat rd rs1 rs2) i s t rd v 0 :=
  (computes_fxu2 (f := fun a b => .exact (f a b)) unit word runs).exact (congrArg _ value)

theorem executes_compare2 {f : W64 → W64 → Bool} (unit : i.unit = .fxu) (word : encode i = encodeR3 op rd rs1 rs2)
    (runs : exec i s = .next (s.compare2 f rd rs1 rs2)) {p : Prop} [Decidable p]
    (test : f (s.frValue rs1) (s.frValue rs2) = true ↔ p) :
    ∃ t, FxuExecutes (fxuWordR op.toNat rd rs1 rs2) i s t rd (rawTruth p) 0 :=
  executes_select2 (f := fun a b => Fx.truth (f a b)) unit word runs (by simp only [Fx.truth, rawTruth, test])

end

theorem Fx.eq_iff (a b : W64) : Fx.eq a b = true ↔ a.toInt = b.toInt := by simp [Fx.eq, BitVec.toInt_inj]

/-- Settles O17. -/
theorem minMax : Obligations.MinMax := by
  intro rd rs1 rs2 s a b
  exact ⟨executes_select2 (op := 0x0D) (f := Fx.min) rfl rfl rfl (by simp only [Fx.min, Fx.le, decide_eq_true_eq]; rfl),
    executes_select2 (op := 0x0E) (f := Fx.max) rfl rfl rfl (by simp only [Fx.max, Fx.le, decide_eq_true_eq]; rfl)⟩

/-- Settles O18. -/
theorem compares : Obligations.Compares := by
  intro rd rs1 rs2 s a b
  exact ⟨executes_compare2 (op := 0x10) (f := Fx.lt) rfl rfl rfl (by simp only [Fx.lt, decide_eq_true_eq]; rfl),
    executes_compare2 (op := 0x11) (f := Fx.le) rfl rfl rfl (by simp only [Fx.le, decide_eq_true_eq]; rfl),
    executes_compare2 (op := 0x12) (f := Fx.eq) rfl rfl rfl (Fx.eq_iff _ _),
    executes_compare2 (op := 0x13) (f := Fx.ne) rfl rfl rfl (by simp only [Fx.ne, Bool.not_eq_true', Bool.eq_false_iff, ne_eq, Fx.eq_iff]; rfl),
    executes_compare2 (op := 0x14) (f := Fx.gt) rfl rfl rfl (by simp only [Fx.gt, decide_eq_true_eq]; rfl),
    executes_compare2 (op := 0x15) (f := Fx.ge) rfl rfl rfl (by simp only [Fx.ge, decide_eq_true_eq]; rfl)⟩

/-! ## LDI, LDIH, MOV, NOP (43_fxu_move.md) -/

theorem onlyWord_imm {op : BitVec 6} {i : Instr} {rd : Reg} {imm16 : BitVec 16} (unit : i.unit = .fxu)
    (word : encode i = encodeImm op rd imm16) : OnlyWord .fxu (fxuWordI op.toNat rd imm16) i :=
  onlyWord_encode unit ((fxuWordI_eq op rd imm16).trans word.symm)

/-- Shifting an immediate in below the old low 48 bits (R181). -/
theorem immShiftedIn_eq (old : W64) (imm16 : BitVec 16) :
    immShiftedIn old imm16 = (old <<< 16) ||| imm16.zeroExtend 64 := by
  refine BitVec.eq_of_getLsbD_eq fun k hk => ?_
  rw [immShiftedIn, BitVec.getLsbD_append, BitVec.getLsbD_or, BitVec.getLsbD_shiftLeft, BitVec.zeroExtend,
    BitVec.getLsbD_setWidth, BitVec.getLsbD_extractLsb']
  by_cases low : k < 16
  · simp [low, hk]
  · have inside : k - 16 < 48 := by omega
    simp [low, hk, inside, BitVec.getLsbD_of_ge imm16 k (by omega)]

/-- Settles O19. -/
theorem ldiLdih : Obligations.LdiLdih := by
  intro rd imm16 s
  refine ⟨⟨_, onlyWord_imm (op := 0x18) rfl rfl, rfl, State.retire_exact s rd _⟩,
    ⟨_, onlyWord_imm (op := 0x19) rfl rfl, rfl, ?_⟩⟩
  rw [← immShiftedIn_eq]
  exact s.fxu1_writes (fun old => .exact (immShiftedIn old imm16)) rd rd

/-- Settles O20. -/
theorem movNop : Obligations.MovNop := by
  refine ⟨fun rd rs1 s => ?_, ⟨onlyWord_encode rfl rfl, fun _ => rfl⟩, onlyWord_encode rfl rfl, fun _ => rfl⟩
  exact (computes_fxu1 (op := 0x1A) (f := FxResult.exact) rfl rfl rfl).exact rfl

end Sys2Proof.Machine
end
section
/-!
The expansions of the pseudo-instructions (30_encoding.md R107), run command by command.
-/

namespace Sys2Proof.Machine

/-! ## One command after another -/

theorem runInstrs_cons {i : Instr} {is : List Instr} {s t : State} (h : exec i s = .next t) :
    runInstrs (i :: is) s = runInstrs is t := by
  rw [runInstrs, h]

theorem runInstrs_append {is js : List Instr} {s t : State} (h : runInstrs is s = some t) :
    runInstrs (is ++ js) s = runInstrs js t := by
  induction is generalizing s with
  | nil => rw [← Option.some.inj h]; rfl
  | cons i is ih =>
    rw [runInstrs] at h
    generalize run : exec i s = outcome at h
    cases outcome with
    | next u => rw [List.cons_append, runInstrs_cons run]; exact ih h
    | fault f => cases h
    | refused r => cases h

theorem FxuFrame.trans {s t u : State} (h : FxuFrame s t) (h' : FxuFrame t u) : FxuFrame s u where
  memory a := (h'.memory a).trans (h.memory a)
  bweStatus := h'.bweStatus.trans h.bweStatus
  bweVersion := h'.bweVersion.trans h.bweVersion
  pending := h'.pending.trans h.pending
  response := h'.response.trans h.response

/-- Two commands that write the same register: the second value stays, and the conditions of both. -/
theorem FxuWrites.trans {s t u : State} {rd : Reg} {v v' : W64} {raised raised' : W32} (h : FxuWrites s t rd v raised)
    (h' : FxuWrites t u rd v' raised') : FxuWrites s u rd v' (raised ||| raised') where
  value := h'.value
  written := h'.written
  others r hr := (h'.others r hr).trans (h.others r hr)
  status := by rw [h'.status, h.status, BitVec.or_assoc]
  frame := h.frame.trans h'.frame

theorem FxuWrites.frValue_other {s t : State} {rd r : Reg} {v : W64} {raised : W32} (h : FxuWrites s t rd v raised)
    (hr : r ≠ rd) : t.frValue r = s.frValue r := congrArg FReg.value (h.others r hr)

/-! ## LDI and the chain of LDIH -/

theorem immSigned_ofInt {v : Int} (lo : -32768 ≤ v) (hi : v ≤ 32767) : immSigned (immOfInt v) = BitVec.ofInt 64 v := by
  rw [immSigned, immOfInt, BitVec.signExtend, BitVec.toInt_ofInt, Int.bmod_eq_of_le] <;> omega

theorem getLsbD_immShiftedIn (old : W64) (imm16 : BitVec 16) {k : Nat} (hk : k < 64) :
    (immShiftedIn old imm16).getLsbD k = if k < 16 then imm16.getLsbD k else old.getLsbD (k - 16) := by
  rw [immShiftedIn, BitVec.getLsbD_append, BitVec.getLsbD_extractLsb']
  by_cases low : k < 16
  · simp only [if_pos low]
  · have inside : k - 16 < 48 := by omega
    simp [low, inside]

theorem getLsbD_immSigned (imm16 : BitVec 16) {k : Nat} (hk : k < 16) : (immSigned imm16).getLsbD k = imm16.getLsbD k := by
  rw [immSigned, BitVec.getLsbD_signExtend]
  have : k < 64 := by omega
  simp [this, hk]

/-- The four immediates of LI64 spell the word. -/
theorem immediates_join (v : W64) :
    immShiftedIn (immShiftedIn (immShiftedIn (immSigned (v.extractLsb' 48 16)) (v.extractLsb' 32 16)) (v.extractLsb' 16 16))
      (v.extractLsb' 0 16) = v := by
  have piece (lo k : Nat) (hk : k < 16) : (v.extractLsb' lo 16).getLsbD k = v.getLsbD (lo + k) := by
    simp [hk]
  refine BitVec.eq_of_getLsbD_eq fun k hk => ?_
  rw [getLsbD_immShiftedIn _ _ hk]
  split
  next h0 => rw [piece 0 k h0, Nat.zero_add]
  next h0 =>
    rw [getLsbD_immShiftedIn _ _ (by omega)]
    split
    next h1 => rw [piece 16 _ h1]; congr 1; omega
    next h1 =>
      rw [getLsbD_immShiftedIn _ _ (by omega)]
      split
      next h2 => rw [piece 32 _ h2]; congr 1; omega
      next h2 =>
        have h3 : k - 16 - 16 - 16 < 16 := by omega
        rw [getLsbD_immSigned _ h3, piece 48 _ h3]
        congr 1
        omega

theorem exec_ldi (rd : Reg) (imm16 : BitVec 16) (s : State) :
    ∃ t, exec (.ldi rd imm16) s = .next t ∧ FxuWrites s t rd (immSigned imm16) 0 :=
  ⟨_, rfl, State.retire_exact s rd _⟩

theorem exec_ldih (rd : Reg) (imm16 : BitVec 16) (s : State) :
    ∃ t, exec (.ldih rd imm16) s = .next t ∧ FxuWrites s t rd (immShiftedIn (s.frValue rd) imm16) 0 :=
  ⟨_, rfl, s.fxu1_writes (fun old => .exact (immShiftedIn old imm16)) rd rd⟩

theorem exec_fromint (rd rs1 : Reg) (s : State) :
    ∃ t, exec (.fromint rd rs1) s = .next t ∧ FxuWrites s t rd (BitVec.ofInt 64 ((s.frValue rs1).toInt * 2 ^ 24))
      (ovIf (¬(-2 ^ 39 < (s.frValue rs1).toInt ∧ (s.frValue rs1).toInt < 2 ^ 39 - 1))) := by
  obtain ⟨t, ht⟩ := (fromintToint rd rs1 s).1
  exact ⟨t, ht.runs, ht.writes⟩

theorem runInstrs_ldi (rd : Reg) {v : Int} (lo : -32768 ≤ v) (hi : v ≤ 32767) (s : State) (is : List Instr) :
    ∃ t, runInstrs (.ldi rd (immOfInt v) :: is) s = runInstrs is t ∧ FxuWrites s t rd (BitVec.ofInt 64 v) 0 := by
  obtain ⟨t, run, writes⟩ := exec_ldi rd (immOfInt v) s
  rw [immSigned_ofInt lo hi] at writes
  exact ⟨t, runInstrs_cons run, writes⟩

theorem runInstrs_expandLi64 (rd : Reg) (v : W64) (s : State) :
    ∃ t, runInstrs (expandLi64 rd v) s = some t ∧ FxuWrites s t rd v 0 := by
  obtain ⟨t1, run1, w1⟩ := exec_ldi rd (v.extractLsb' 48 16) s
  obtain ⟨t2, run2, w2⟩ := exec_ldih rd (v.extractLsb' 32 16) t1
  obtain ⟨t3, run3, w3⟩ := exec_ldih rd (v.extractLsb' 16 16) t2
  obtain ⟨t4, run4, w4⟩ := exec_ldih rd (v.extractLsb' 0 16) t3
  refine ⟨t4, ?_, ?_⟩
  · rw [expandLi64, runInstrs_cons run1, runInstrs_cons run2, runInstrs_cons run3, runInstrs_cons run4, runInstrs]
  · have joined := ((w1.trans w2).trans w3).trans w4
    rw [w3.value, w2.value, w1.value, immediates_join] at joined
    simpa using joined

/-! ## The expansions -/

theorem runInstrs_fromint {rd : Reg} {u s : State} {v : W64} (h : FxuWrites s u rd v 0) :
    ∃ t, runInstrs [.fromint rd rd] u = some t ∧ FxuWrites s t rd (BitVec.ofInt 64 (v.toInt * 2 ^ 24))
      (ovIf (¬(-2 ^ 39 < v.toInt ∧ v.toInt < 2 ^ 39 - 1))) := by
  obtain ⟨t, run, writes⟩ := exec_fromint rd rd u
  rw [h.value] at writes
  exact ⟨t, runInstrs_cons run, by simpa using h.trans writes⟩

theorem runInstrs_lfrac (rd ft : Reg) (p q : W64) (s : State) (distinct : ft ≠ rd) (nonzero : q ≠ 0) :
    ∃ t, runInstrs (expand (.lfrac rd p q ft)) s = some t
      ∧ t.frValue rd = withSigns p.toInt q.toInt (roundedQuotient p.toInt q.toInt) ∧ t.frValue ft = q
      ∧ (∀ r : Reg, r ≠ rd → r ≠ ft → t.fr[r] = s.fr[r])
      ∧ t.fxuStatus = s.fxuStatus ||| ovIf (roundedQuotient p.toInt q.toInt ≥ 2 ^ 63) ∧ FxuFrame s t := by
  obtain ⟨t1, run1, w1⟩ := runInstrs_expandLi64 rd p s
  obtain ⟨t2, run2, w2⟩ := runInstrs_expandLi64 ft q t1
  have first : t2.frValue rd = p := (w2.frValue_other distinct.symm).trans w1.value
  have quotient := (divFromfracMod rd rd ft t2).1
  simp only [first, w2.value] at quotient
  obtain ⟨-, ⟨t3, h3⟩, -⟩ := quotient nonzero
  refine ⟨t3, ?_, h3.writes.value, ?_, fun r hrd hft => ?_, ?_, (w1.frame.trans w2.frame).trans h3.writes.frame⟩
  · rw [expand, List.append_assoc, runInstrs_append run1, runInstrs_append run2]
    exact runInstrs_cons h3.runs
  · rw [h3.writes.frValue_other distinct, w2.value]
  · rw [h3.writes.others r hrd, w2.others r hft, w1.others r hrd]
  · rw [h3.writes.status, w2.status, w1.status]
    simp

/-- Settles O21, expansion by expansion. -/
theorem pseudoInstructions : Obligations.PseudoInstructions := by
  intro rd s
  refine ⟨fun v lo hi => ?li64Short, fun v => runInstrs_expandLi64 rd v s, fun n lo hi => ?lfxShort, fun n => ?lfx,
    fun p q ft distinct nonzero => runInstrs_lfrac rd ft p q s distinct nonzero, ?clr, fun _ _ => ⟨rfl, rfl⟩⟩
  case li64Short => exact runInstrs_ldi rd lo hi s []
  case lfxShort =>
    obtain ⟨u, run, writes⟩ := runInstrs_ldi rd lo hi s [.fromint rd rd]
    obtain ⟨t, run', writes'⟩ := runInstrs_fromint writes
    have value : (BitVec.ofInt 64 n).toInt = n := by
      rw [BitVec.toInt_ofInt, Int.bmod_eq_of_le] <;> omega
    have noOv : ovIf (¬(-2 ^ 39 < n ∧ n < 2 ^ 39 - 1)) = 0 := if_neg (by omega)
    rw [value, noOv] at writes'
    exact ⟨t, run.trans run', writes'⟩
  case lfx =>
    obtain ⟨u, run, writes⟩ := runInstrs_expandLi64 rd n s
    obtain ⟨t, run', writes'⟩ := runInstrs_fromint writes
    exact ⟨t, (runInstrs_append run).trans run', writes'⟩
  case clr => exact runInstrs_ldi rd (v := 0) (by decide) (by decide) s []

end Sys2Proof.Machine
end

section
/-!
What the formulas of the FXU mean on integers: products and rounded quotients with their signs, the multiples of FLOOR and CEIL, and
the laws that follow (40_fxu_arith.md R115, R118; 41_fxu_rounding.md R140, R141, R145).
-/

namespace Sys2Proof.Machine

/-! ## Exact results -/

theorem FxResult.TestedFor.eq_exact_iff {x : FxResult} {v w : W64} {p : Prop} [Decidable p] (h : x.TestedFor v p) :
    x = .exact w ↔ ¬p ∧ w = v := by
  rw [FxResult.TestedFor] at h
  rw [h]
  by_cases hp : p
  · simp [Fx.withOv, hp]
  · simp [Fx.withOv, hp, eq_comm]

theorem FxResult.TestedFor.exists_overflow_iff {x : FxResult} {v : W64} {p : Prop} [Decidable p] (h : x.TestedFor v p) :
    (∃ r, x = .overflow r) ↔ p := by
  rw [FxResult.TestedFor] at h
  rw [h]
  by_cases hp : p
  · simp [Fx.withOv, hp]
  · simp [Fx.withOv, hp]

theorem toInt_ofInt_of_range {n : Int} (lo : -2 ^ 63 ≤ n) (hi : n < 2 ^ 63) : (BitVec.ofInt 64 n).toInt = n := by
  rw [BitVec.toInt_ofInt, Int.bmod_eq_of_le] <;> omega

theorem toInt_range (a : W64) : -2 ^ 63 ≤ a.toInt ∧ a.toInt < 2 ^ 63 := ⟨BitVec.le_toInt a, BitVec.toInt_lt⟩

theorem toInt_neg_of_ne {a : W64} (h : a ≠ mostNegative) : (-a).toInt = -a.toInt := by
  obtain ⟨lo, hi⟩ := toInt_range a
  have notLeast : a.toInt ≠ -2 ^ 63 := fun e => h (BitVec.eq_of_toInt_eq e)
  rw [BitVec.toInt_neg, Int.bmod_eq_of_le] <;> omega

theorem toInt_eq_zero_iff (a : W64) : a.toInt = 0 ↔ a = 0 := by
  rw [← Int.natAbs_eq_zero, natAbs_toInt_eq_zero_iff]

/-! ## Magnitudes with signs (R114, R115) -/

/-- The integer of a magnitude with the sign of two operands. -/
def signedInt (n d : Int) (magnitude : Nat) : Int := if n < 0 ↔ d < 0 then magnitude else -magnitude

theorem withSigns_eq_ofInt (n d : Int) (magnitude : Nat) :
    withSigns n d magnitude = BitVec.ofInt 64 (signedInt n d magnitude) := by
  unfold withSigns signedInt
  by_cases same : n < 0 ↔ d < 0
  · simp [same]
  · simp [same, BitVec.ofInt_neg]

theorem toInt_withSigns (n d : Int) {magnitude : Nat} (h : magnitude < 2 ^ 63) :
    (withSigns n d magnitude).toInt = signedInt n d magnitude := by
  rw [withSigns_eq_ofInt, signedInt, toInt_ofInt_of_range] <;> split <;> omega

theorem signedInt_comm (n d : Int) (magnitude : Nat) : signedInt n d magnitude = signedInt d n magnitude := by
  simp only [signedInt, iff_comm]

theorem signedInt_neg_left {n : Int} (d : Int) {magnitude : Nat} (h : n = 0 → magnitude = 0) :
    signedInt (-n) d magnitude = -signedInt n d magnitude := by
  unfold signedInt
  by_cases hn : n < 0 <;> by_cases hd : d < 0 <;> split <;> split <;> omega

/-- A magnitude with signs, times the second operand: the sign of the first one stays. -/
theorem signedInt_mul (n d : Int) (magnitude : Nat) :
    signedInt n d magnitude * d = if n < 0 then -((magnitude * d.natAbs : Nat) : Int) else ((magnitude * d.natAbs : Nat) : Int) := by
  unfold signedInt
  by_cases hn : n < 0 <;> by_cases hd : d < 0 <;> simp [hn, hd, abs_of_neg, abs_of_nonneg, not_lt.1]

theorem signedInt_natAbs (n d : Int) : signedInt n d (n.natAbs * d.natAbs) = n * d := by
  unfold signedInt
  by_cases hn : n < 0 <;> by_cases hd : d < 0 <;> simp [hn, hd, abs_of_neg, abs_of_nonneg, not_lt.1]

theorem signedInt_congr {n d n' d' : Int} (hn : n < 0 ↔ n' < 0) (hd : d < 0 ↔ d' < 0) (magnitude : Nat) :
    signedInt n d magnitude = signedInt n' d' magnitude := by
  simp only [signedInt, hn, hd]

theorem withSigns_neg_left {n : Int} (d : Int) {magnitude : Nat} (h : n = 0 → magnitude = 0) :
    withSigns (-n) d magnitude = -withSigns n d magnitude := by
  rw [withSigns_eq_ofInt, withSigns_eq_ofInt, signedInt_neg_left d h, BitVec.ofInt_neg]

theorem withSigns_comm (n d : Int) (magnitude : Nat) : withSigns n d magnitude = withSigns d n magnitude := by
  rw [withSigns_eq_ofInt, withSigns_eq_ofInt, signedInt_comm]

/-! ## The rounded quotient (R115) -/

/-- The rounded quotient lies within half a divisor, and above the quotient where it is exactly half away. -/
theorem roundedQuotient_bounds (n d : Int) (hd : d ≠ 0) :
    let M := roundedQuotient n d
    2 * (M * d.natAbs) ≤ 2 * (n.natAbs * 2 ^ 24) + d.natAbs
      ∧ 2 * (n.natAbs * 2 ^ 24) < 2 * (M * d.natAbs) + d.natAbs := by
  have positive : 0 < d.natAbs := Int.natAbs_pos.2 hd
  have division := Nat.div_add_mod (n.natAbs * 2 ^ 24) d.natAbs
  have remainder := Nat.mod_lt (n.natAbs * 2 ^ 24) positive
  simp only [roundedQuotient]
  rw [Nat.mul_comm] at division
  generalize n.natAbs * 2 ^ 24 / d.natAbs = q at division ⊢
  generalize n.natAbs * 2 ^ 24 % d.natAbs = r at division remainder
  generalize n.natAbs * 2 ^ 24 = X at division ⊢
  have step : (q + 1) * d.natAbs = q * d.natAbs + d.natAbs := Nat.succ_mul _ _
  split
  · rw [step]; omega
  · omega

/-- The rounded quotient is the only magnitude so near. -/
theorem roundedQuotient_eq {n d : Int} {m : Nat} (hd : d ≠ 0) (above : 2 * (m * d.natAbs) ≤ 2 * (n.natAbs * 2 ^ 24) + d.natAbs)
    (below : 2 * (n.natAbs * 2 ^ 24) < 2 * (m * d.natAbs) + d.natAbs) : roundedQuotient n d = m := by
  obtain ⟨above', below'⟩ := roundedQuotient_bounds n d hd
  have positive : 0 < d.natAbs := Int.natAbs_pos.2 hd
  have lt1 : roundedQuotient n d < m + 1 := by
    refine Nat.lt_of_mul_lt_mul_right (a := d.natAbs) ?_
    rw [Nat.succ_mul]
    omega
  have lt2 : m < roundedQuotient n d + 1 := by
    refine Nat.lt_of_mul_lt_mul_right (a := d.natAbs) ?_
    rw [Nat.succ_mul]
    omega
  omega

theorem roundedQuotient_zero (d : Int) : roundedQuotient 0 d = 0 ∨ d = 0 := by
  by_cases hd : d = 0
  · exact .inr hd
  · have positive : 0 < d.natAbs := Int.natAbs_pos.2 hd
    exact .inl (roundedQuotient_eq hd (by simp) (by simpa using positive))

/-- FRAC, where it raises nothing. -/
theorem Fx.frac_eq_exact_iff (n d v : W64) : Fx.frac n d = .exact v ↔
    d ≠ 0 ∧ roundedQuotient n.toInt d.toInt < 2 ^ 63 ∧ v = withSigns n.toInt d.toInt (roundedQuotient n.toInt d.toInt) := by
  by_cases hd : d = 0
  · rw [Fx.frac_zero hd]
    constructor
    · intro e; cases e
    · rintro ⟨nonzero, _⟩; exact absurd hd nonzero
  · rw [(Fx.frac_tested n d hd).eq_exact_iff, ge_iff_le, Nat.not_le]
    exact ⟨fun h => ⟨hd, h⟩, fun ⟨_, h⟩ => h⟩

/-- Settles O16: times the divisor, the result and the dividend differ by what the rounding of the magnitude leaves. -/
theorem fracIsNearest : Obligations.FracIsNearest := by
  intro n d v h
  obtain ⟨hd, small, rfl⟩ := (Fx.frac_eq_exact_iff n d v).1 h
  have hd' : d.toInt ≠ 0 := fun e => hd ((toInt_eq_zero_iff d).1 e)
  obtain ⟨above, below⟩ := roundedQuotient_bounds n.toInt d.toInt hd'
  rw [toInt_withSigns _ _ small, signedInt_mul]
  have magnitude : (signedInt n.toInt d.toInt (roundedQuotient n.toInt d.toInt)).natAbs = roundedQuotient n.toInt d.toInt := by
    unfold signedInt
    split <;> simp
  rw [magnitude]
  generalize roundedQuotient n.toInt d.toInt * d.toInt.natAbs = P at above below ⊢
  split <;> omega

/-! ## The round trip (41_fxu_rounding.md R145) -/

theorem Fx.mulSum_of_whole (A m : Nat) : Fx.mulSum A (m * 2 ^ 24) = A * m := by
  have fraction : m * 2 ^ 24 % Fx.scale = 0 := Nat.mul_mod_left _ _
  have whole : m * 2 ^ 24 / Fx.scale = m := Nat.mul_div_cancel _ (by decide)
  have half : ¬Fx.half ≤ 0 := by decide
  have division : A / Fx.scale * Fx.scale + A % Fx.scale = A := Nat.div_add_mod' A Fx.scale
  simp only [Fx.mulSum, fraction, whole, Nat.mul_zero, Nat.zero_div, if_neg half, Nat.add_zero]
  calc A / Fx.scale * m * Fx.scale + m * (A % Fx.scale)
      = (A / Fx.scale * Fx.scale + A % Fx.scale) * m := by ring
    _ = A * m := by rw [division]

theorem Fx.mul_tested (a b : W64) : (Fx.mul a b).TestedFor (withSigns a.toInt b.toInt (Fx.mulSum (Fx.mag a) (Fx.mag b)))
    (Fx.mulIntProduct (Fx.mag a) (Fx.mag b) ≥ 2 ^ 39 ∨ Fx.mulSum (Fx.mag a) (Fx.mag b) > 2 ^ 63 - 1) :=
  FxResult.testedFor_withOv (Fx.signed_eq_withSigns a b _) (mulOverflows_iff _ _)

/-- MUL by a whole number is exact (R118). -/
theorem Fx.mul_whole {a b x : W64} {n : Int} (hb : b.toInt = n * 2 ^ 24) (h : Fx.mul a b = .exact x) :
    x.toInt = a.toInt * n := by
  obtain ⟨small, rfl⟩ := (Fx.mul_tested a b).eq_exact_iff.1 h
  have magnitude : Fx.mag b = n.natAbs * 2 ^ 24 := by rw [Fx.mag, hb, Int.natAbs_mul]; rfl
  rw [magnitude, Fx.mulSum_of_whole] at small ⊢
  have sign : b.toInt < 0 ↔ n < 0 := by omega
  rw [toInt_withSigns _ _ (by omega), signedInt_congr Iff.rfl sign, Fx.mag, signedInt_natAbs]

theorem toInt_ofInteger {n : Int} (lo : -2 ^ 39 < n) (hi : n < 2 ^ 39) : (Fx.ofInteger n).toInt = n * 2 ^ 24 := by
  have scale : n * (Fx.scale : Int) = n * 2 ^ 24 := rfl
  rw [Fx.ofInteger, Fx.wrap, scale, toInt_ofInt_of_range] <;> omega

theorem Fx.toInt_of_fromInt_exact {d fd : W64} (h : Fx.fromInt d = .exact fd) : fd.toInt = d.toInt * 2 ^ 24 := by
  obtain ⟨inside, rfl⟩ := (Fx.fromInt_tested d).eq_exact_iff.1 h
  rw [not_not] at inside
  rw [toInt_ofInt_of_range] <;> omega

theorem Fx.toInt_of_toInt_exact {p i : W64} (h : Fx.toInt p = .exact i) : i.toInt = p.toInt / 2 ^ 24 := by
  have shift : p.toInt >>> 24 = p.toInt / 2 ^ 24 :=
    (Int.shiftRight_natCast_right p.toInt 24).trans (Int.shiftRight_eq_div_pow p.toInt 24)
  obtain ⟨inside, rfl⟩ := (Fx.toInt_tested p).eq_exact_iff.1 h
  rw [not_not, shift] at inside
  rw [shift, Int.bmod_eq_of_le (by omega) (by omega), toInt_ofInt_of_range] <;> omega

/-- Settles O14: the integer part of a * D, over D, is nearer to a than half a unit, with the sign of a. -/
theorem roundTrip : Obligations.RoundTrip := by
  intro a d fd p i hd small fromInt mul toInt
  have product : p.toInt = a.toInt * d.toInt := Fx.mul_whole (Fx.toInt_of_fromInt_exact fromInt) mul
  have integer := Fx.toInt_of_toInt_exact toInt
  rw [product] at integer
  have divisor : d.toInt = 2 ^ 24 ∨ d.toInt = 2 ^ 25 + 1 := by
    rcases hd with rfl | rfl
    · exact .inl (by decide)
    · exact .inr (by decide)
  have nonzero : d.toInt ≠ 0 := by omega
  have quotient : roundedQuotient i.toInt d.toInt = a.toInt.natAbs := by
    rcases divisor with e | e <;> rw [e] at integer ⊢
    · have magnitude : ((2 : Int) ^ 24).natAbs = 2 ^ 24 := rfl
      exact roundedQuotient_eq (by decide) (by rw [magnitude]; omega) (by rw [magnitude]; omega)
    · have magnitude : ((2 : Int) ^ 25 + 1).natAbs = 2 ^ 25 + 1 := rfl
      exact roundedQuotient_eq (by decide) (by rw [magnitude]; omega) (by rw [magnitude]; omega)
  have sign : i.toInt < 0 ↔ a.toInt < 0 := by
    rcases divisor with e | e <;> rw [e] at integer <;> omega
  refine (Fx.frac_eq_exact_iff i d a).2 ⟨fun h => nonzero ((toInt_eq_zero_iff d).2 h), by omega, ?_⟩
  have positive : ¬d.toInt < 0 := by omega
  rw [quotient, withSigns_eq_ofInt, signedInt]
  have value : (if i.toInt < 0 ↔ d.toInt < 0 then (a.toInt.natAbs : Int) else -(a.toInt.natAbs : Int)) = a.toInt := by
    simp only [sign, positive, iff_false]
    split <;> omega
  rw [value, BitVec.ofInt_toInt]

/-! ## The laws (40_fxu_arith.md R118) -/

theorem Fx.add_comm (a b : W64) : Fx.add a b = Fx.add b a := by rw [Fx.add, Fx.add, Int.add_comm]

theorem Fx.mulIntProduct_comm (A B : Nat) : Fx.mulIntProduct A B = Fx.mulIntProduct B A := Nat.mul_comm _ _

theorem Fx.mulSum_comm (A B : Nat) : Fx.mulSum A B = Fx.mulSum B A := by
  simp only [Fx.mulSum, Nat.mul_comm (A % Fx.scale) (B % Fx.scale), Nat.mul_comm (A / Fx.scale) (B / Fx.scale),
    Nat.add_right_comm _ (A / Fx.scale * (B % Fx.scale))]

theorem Fx.mul_comm (a b : W64) : Fx.mul a b = Fx.mul b a := by
  have sign : Fx.signsDiffer a b = Fx.signsDiffer b a := Bool.xor_comm _ _
  rw [Fx.mul, Fx.mul, Fx.mulIntProduct_comm, Fx.mulSum_comm, sign]

theorem Fx.add_assoc {a b c ab bc l r : W64} (hab : Fx.add a b = .exact ab) (hl : Fx.add ab c = .exact l)
    (hbc : Fx.add b c = .exact bc) (hr : Fx.add a bc = .exact r) : l = r := by
  refine BitVec.eq_of_toInt_eq ?_
  rw [Fx.narrow_eq_exact_iff hl, Fx.narrow_eq_exact_iff hr, Fx.narrow_eq_exact_iff hab, Fx.narrow_eq_exact_iff hbc,
    Int.add_assoc]

theorem Fx.sub_eq_add_neg {a b nb x y : W64} (hx : Fx.sub a b = .exact x) (hnb : Fx.neg b = .exact nb)
    (hy : Fx.add a nb = .exact y) : x = y := by
  refine BitVec.eq_of_toInt_eq ?_
  rw [Fx.narrow_eq_exact_iff hx, Fx.narrow_eq_exact_iff hy, Fx.narrow_eq_exact_iff hnb, Int.sub_eq_add_neg]

theorem Fx.mag_neg {a : W64} (h : a ≠ mostNegative) : Fx.mag (-a) = Fx.mag a := by
  rw [Fx.mag, Fx.mag, toInt_neg_of_ne h, Int.natAbs_neg]

theorem Fx.mulSum_zero (B : Nat) : Fx.mulSum 0 B = 0 := by
  have half : ¬Fx.half ≤ 0 := by decide
  simp [Fx.mulSum, half]

theorem Fx.mul_neg_left {a b x : W64} (ha : a ≠ mostNegative) (h : Fx.mul a b = .exact x) : Fx.mul (-a) b = .exact (-x) := by
  obtain ⟨small, rfl⟩ := (Fx.mul_tested a b).eq_exact_iff.1 h
  refine (Fx.mul_tested (-a) b).eq_exact_iff.2 ?_
  rw [Fx.mag_neg ha, toInt_neg_of_ne ha]
  refine ⟨small, (withSigns_neg_left b.toInt fun zero => ?_).symm⟩
  rw [Fx.mag, zero]
  exact Fx.mulSum_zero _

theorem roundedQuotient_congr {n d n' d' : Int} (hn : n.natAbs = n'.natAbs) (hd : d.natAbs = d'.natAbs) :
    roundedQuotient n d = roundedQuotient n' d' := by
  simp only [roundedQuotient, hn, hd]

theorem Fx.div_neg_left {a b x : W64} (ha : a ≠ mostNegative) (h : Fx.frac a b = .exact x) :
    Fx.frac (-a) b = .exact (-x) := by
  obtain ⟨hb, small, rfl⟩ := (Fx.frac_eq_exact_iff a b x).1 h
  have nonzero : b.toInt ≠ 0 := fun e => hb ((toInt_eq_zero_iff b).1 e)
  have quotient : roundedQuotient (-a.toInt) b.toInt = roundedQuotient a.toInt b.toInt :=
    roundedQuotient_congr (Int.natAbs_neg _) rfl
  rw [Fx.frac_eq_exact_iff, toInt_neg_of_ne ha, quotient]
  refine ⟨hb, small, (withSigns_neg_left b.toInt fun zero => ?_).symm⟩
  rw [zero]
  exact (roundedQuotient_zero _).resolve_right nonzero

theorem Fx.div_neg_right {a b x : W64} (hb : b ≠ mostNegative) (h : Fx.frac a b = .exact x) :
    Fx.frac a (-b) = .exact (-x) := by
  obtain ⟨nonzero, small, rfl⟩ := (Fx.frac_eq_exact_iff a b x).1 h
  have quotient : roundedQuotient a.toInt (-b.toInt) = roundedQuotient a.toInt b.toInt :=
    roundedQuotient_congr rfl (Int.natAbs_neg _)
  rw [Fx.frac_eq_exact_iff, toInt_neg_of_ne hb, quotient]
  refine ⟨neg_ne_zero.2 nonzero, small, ?_⟩
  rw [withSigns_comm a.toInt (-b.toInt), withSigns_comm a.toInt b.toInt]
  exact (withSigns_neg_left a.toInt fun zero => absurd ((toInt_eq_zero_iff b).1 zero) nonzero).symm

theorem Fx.fracMagnitude_scaled (N D : Nat) : Fx.fracMagnitude (N * 2 ^ 24) (D * 2 ^ 24) = Fx.fracMagnitude N D := by
  have scale : N * 2 ^ 24 * Fx.scale = N * Fx.scale * 2 ^ 24 := Nat.mul_right_comm _ _ _
  have test : D * 2 ^ 24 ≤ 2 * (N * Fx.scale % D * 2 ^ 24) ↔ D ≤ 2 * (N * Fx.scale % D) := by omega
  simp only [Fx.fracMagnitude, scale, Nat.mul_div_mul_right _ _ (by decide : 0 < 2 ^ 24), Nat.mul_mod_mul_right, test]

/-- DIV of whole numbers is FRAC of the integers (R118). -/
theorem Fx.div_whole {n m : Int} (hn : -2 ^ 39 < n ∧ n < 2 ^ 39) (hm : -2 ^ 39 < m ∧ m < 2 ^ 39) :
    Fx.div (Fx.ofInteger n) (Fx.ofInteger m) = Fx.frac (BitVec.ofInt 64 n) (BitVec.ofInt 64 m) := by
  have whole {k : Int} (hk : -2 ^ 39 < k ∧ k < 2 ^ 39) : (Fx.ofInteger k).toInt = (BitVec.ofInt 64 k).toInt * 2 ^ 24 := by
    rw [toInt_ofInteger hk.1 hk.2, toInt_ofInt_of_range] <;> omega
  have magnitude {k : Int} (hk : -2 ^ 39 < k ∧ k < 2 ^ 39) :
      Fx.mag (Fx.ofInteger k) = Fx.mag (BitVec.ofInt 64 k) * 2 ^ 24 := by
    rw [Fx.mag, whole hk, Int.natAbs_mul]
    rfl
  have zero : Fx.ofInteger m = 0 ↔ BitVec.ofInt 64 m = 0 := by
    rw [← toInt_eq_zero_iff, ← toInt_eq_zero_iff, whole hm]
    omega
  have sign {k : Int} (hk : -2 ^ 39 < k ∧ k < 2 ^ 39) : (Fx.ofInteger k).toInt < 0 ↔ (BitVec.ofInt 64 k).toInt < 0 := by
    rw [whole hk]
    omega
  have signs : Fx.signsDiffer (Fx.ofInteger n) (Fx.ofInteger m) = Fx.signsDiffer (BitVec.ofInt 64 n) (BitVec.ofInt 64 m) := by
    simp only [Fx.signsDiffer, sign hn, sign hm]
  simp only [Fx.div, Fx.frac, zero, magnitude hn, magnitude hm, Fx.fracMagnitude_scaled, signs]

/-- One raw unit by one half twice is one unit; by the quarter that MUL gives for the two halves it is none. -/
theorem Fx.mul_not_assoc : Fx.mul 1 0x800000 = .exact 1 ∧ Fx.mul 0x800000 0x800000 = .exact 0x400001
    ∧ Fx.mul 1 0x400001 = .exact 0 := by decide

/-- Settles O15. -/
theorem fxuLaws : Obligations.FxuLaws := by
  refine ⟨Fx.add_comm, Fx.mul_comm, fun a b c ab bc l r => Fx.add_assoc, fun a b nb x y => Fx.sub_eq_add_neg,
    fun a b x => Fx.mul_neg_left, fun a b x ha hb h => ⟨Fx.div_neg_left ha h, Fx.div_neg_right hb h⟩,
    fun a n x lo hi => Fx.mul_whole (toInt_ofInteger lo hi), fun n m n0 n1 m0 m1 => Fx.div_whole ⟨n0, n1⟩ ⟨m0, m1⟩, ?_,
    by decide, by decide⟩
  obtain ⟨unit, quarter, none⟩ := Fx.mul_not_assoc
  exact ⟨1, 0x800000, 0x800000, 1, 0x400001, 1, 0, unit, unit, quarter, none, by decide⟩

/-! ## Multiples of a quantum (41_fxu_rounding.md R140, R141) -/

theorem Fx.mag_pos {q : W64} (hq : q ≠ 0) : 0 < Fx.mag q := Nat.pos_of_ne_zero fun h => hq ((Fx.mag_eq_zero q).1 h)

theorem tdiv_natCast_eq_ite (a : Int) (k : Nat) :
    a.tdiv k = if a < 0 then -((a.natAbs / k : Nat) : Int) else ((a.natAbs / k : Nat) : Int) := by
  split
  next neg =>
    have opposite : a = -(a.natAbs : Int) := by omega
    conv_lhs => rw [opposite, Int.neg_tdiv, ← Int.ofNat_tdiv]
  next nonneg =>
    have same : a = (a.natAbs : Int) := by omega
    conv_lhs => rw [same, ← Int.ofNat_tdiv]

/-- The quantum as a word: 2^63 alone wraps. -/
theorem Fx.toInt_wrap_mag (q : W64) :
    (Fx.wrap (Fx.mag q)).toInt = Fx.mag q ∨ (Fx.mag q = 2 ^ 63 ∧ (Fx.wrap (Fx.mag q)).toInt = -(Fx.mag q : Int)) := by
  have bound := Fx.mag_le q
  rcases Nat.lt_or_eq_of_le bound with small | top
  · exact .inl (toInt_ofInt_of_range (by omega) (by omega))
  · exact .inr ⟨top, by rw [top]; decide⟩

/-- `W` with the sign of `a`. -/
def withSignOf (a : Int) (W : Nat) : Int := if a < 0 then -(W : Int) else W

theorem withSignOf_range (a : W64) {W : Nat} (h : W ≤ Fx.mag a) : -2 ^ 63 ≤ withSignOf a.toInt W ∧ withSignOf a.toInt W < 2 ^ 63 := by
  obtain ⟨lo, hi⟩ := toInt_range a
  rw [Fx.mag] at h
  unfold withSignOf
  split <;> omega

theorem withSignOf_mag (a : W64) : withSignOf a.toInt (Fx.mag a) = a.toInt := by
  unfold withSignOf Fx.mag
  split <;> omega

theorem natAbs_withSignOf (a : Int) (W : Nat) : (withSignOf a W).natAbs = W := by
  unfold withSignOf
  split <;> simp

theorem withSignOf_mul (a : Int) (W k : Nat) : (k : Int) * withSignOf a W = withSignOf a (W * k) := by
  unfold withSignOf
  split <;> push_cast <;> ring

/-- The multiple of a quantum toward zero, as an integer (R140): where the quantum wraps, so does the multiple. -/
theorem Fx.towardZero_toInt_eq (a q : W64) :
    (Fx.towardZero a (Fx.mag q)).toInt = withSignOf a.toInt (Fx.mag a / Fx.mag q * Fx.mag q) := by
  obtain ⟨lo, hi⟩ := withSignOf_range a (Nat.div_mul_le_self (Fx.mag a) (Fx.mag q))
  have divided : a.toInt.tdiv (Fx.mag q) = withSignOf a.toInt (Fx.mag a / Fx.mag q) := tdiv_natCast_eq_ite a.toInt (Fx.mag q)
  rw [Fx.towardZero, Fx.multiples, Fx.wrap]
  rcases Fx.toInt_wrap_mag q with plain | ⟨top, wrapped⟩
  · rw [plain, divided, withSignOf_mul, toInt_ofInt_of_range lo hi]
  · rw [wrapped, Int.tdiv_neg, divided, mul_neg, withSignOf_mul, BitVec.toInt_ofInt, top]
    rw [top] at lo hi
    have small : Fx.mag a / 2 ^ 63 = 0 ∨ (Fx.mag a / 2 ^ 63 = 1 ∧ a.toInt < 0) := by
      obtain ⟨_, positive⟩ := toInt_range a
      rw [Fx.mag]
      omega
    rcases small with none | ⟨one, neg⟩
    · rw [none]
      simp [withSignOf]
    · rw [one, withSignOf, if_pos neg]
      decide

theorem ceilDiv_mul_eq (A : Nat) {Q : Nat} (hQ : 0 < Q) :
    (A + Q - 1) / Q * Q = if A / Q * Q < A then A / Q * Q + Q else A := by
  have division := Nat.div_add_mod A Q
  have remainder := Nat.mod_lt A hQ
  rw [Nat.mul_comm] at division
  split
  next below =>
    have shifted : A + Q - 1 = (A % Q - 1) + (A / Q + 1) * Q := by rw [Nat.succ_mul]; omega
    rw [shifted, Nat.add_mul_div_right _ _ hQ, Nat.div_eq_of_lt (by omega), Nat.zero_add, Nat.succ_mul]
  next whole =>
    have shifted : A + Q - 1 = (Q - 1) + A / Q * Q := by omega
    rw [shifted, Nat.add_mul_div_right _ _ hQ, Nat.div_eq_of_lt (by omega), Nat.zero_add]
    omega

/-- CEIL narrows the multiple of the quantum away from zero (R141). -/
theorem Fx.ceil_eq_narrow (a q : W64) (hq : q ≠ 0) :
    Fx.ceil a q = Fx.narrow (withSignOf a.toInt ((Fx.mag a + Fx.mag q - 1) / Fx.mag q * Fx.mag q)) := by
  have multiple := Fx.towardZero_toInt_eq a q
  have magnitude : Fx.mag (Fx.towardZero a (Fx.mag q)) = Fx.mag a / Fx.mag q * Fx.mag q := by
    rw [Fx.mag, multiple, natAbs_withSignOf]
  rw [Fx.ceil, if_neg hq, ceilDiv_mul_eq _ (Fx.mag_pos hq)]
  simp only [magnitude]
  split
  next below =>
    rw [Fx.stepAway, multiple, withSignOf, withSignOf]
    split
    · exact congrArg Fx.narrow (by push_cast; ring)
    · exact congrArg Fx.narrow (by push_cast; ring)
  next whole =>
    have fits : fits64 a.toInt = true := decide_eq_true (toInt_range a)
    have same : Fx.towardZero a (Fx.mag q) = a := by
      refine BitVec.eq_of_toInt_eq ?_
      have all : Fx.mag a / Fx.mag q * Fx.mag q = Fx.mag a := Nat.le_antisymm (Nat.div_mul_le_self _ _) (Nat.not_lt.1 whole)
      rw [multiple, all, withSignOf_mag]
    rw [withSignOf_mag, Fx.narrow, fits, same, Fx.wrap_toInt]
    rfl

theorem sign_mul_eq_withSignOf (a : Int) {W : Nat} (h : a = 0 → W = 0) : a.sign * (W : Int) = withSignOf a W := by
  unfold withSignOf
  rcases lt_trichotomy a 0 with neg | zero | pos
  · simp [neg, Int.sign_eq_neg_one_of_neg neg]
  · simp [zero, h zero]
  · simp [not_lt.2 pos.le, Int.sign_eq_one_of_pos pos]

/-- Settles O12: the two multiples with the sign of the argument, of which CEIL's is narrowed. -/
theorem floorCeilAreMultiples : Obligations.FloorCeilAreMultiples := by
  intro a q hq A Q
  have positive : 0 < Q := Fx.mag_pos hq
  have signFloor : a.toInt.sign * ((A / Q * Q : Nat) : Int) = withSignOf a.toInt (A / Q * Q) :=
    sign_mul_eq_withSignOf _ fun zero => by simp [A, zero]
  have signCeil : a.toInt.sign * (((A + Q - 1) / Q * Q : Nat) : Int) = withSignOf a.toInt ((A + Q - 1) / Q * Q) :=
    sign_mul_eq_withSignOf _ fun zero => by simp [A, zero, Nat.div_eq_of_lt (show Q - 1 < Q by omega)]
  have floor : Fx.floor a q = .exact (Fx.towardZero a (Fx.mag q)) := if_neg hq
  have ceil : Fx.ceil a q = Fx.narrow (withSignOf a.toInt ((A + Q - 1) / Q * Q)) := Fx.ceil_eq_narrow a q hq
  rw [signFloor, signCeil, floor, ceil]
  refine ⟨fun r h => ?_, fun r h => Fx.narrow_eq_exact_iff h, ⟨_, rfl⟩, ?_⟩
  · rw [← FxResult.exact.inj h]
    exact Fx.towardZero_toInt_eq a q
  · generalize withSignOf a.toInt ((A + Q - 1) / Q * Q) = E
    exact (FxResult.testedFor_narrow E Iff.rfl).exists_overflow_iff

end Sys2Proof.Machine
end

section
/-!
What BWE.CALC and BWE.BWCALCS do before they calculate (45_bwe_calculate.md R200; 70_reset_and_hazards.md R311, R313): ILL alone for an
illegal MODE, and the fault of a needed field that holds no value.
-/

namespace Sys2Proof.Machine

section

variable {s : State}

theorem exec_of_illegalMode (illegal : loadMode s.mem = .illegal) :
    exec .bweCalc s = .next { s with bweStatus := s.bweStatus ||| 2 }
      ∧ exec .bweBwcalcs s = .next { s with bweStatus := s.bweStatus ||| 2 } := by
  constructor
  · show withLegalMode _ _ _ = _
    rw [withLegalMode, illegal]
    rfl
  · show withLegalMode _ _ _ = _
    rw [withLegalMode, illegal]
    rfl

theorem exec_of_unwrittenMode {a : Nat} (unwritten : loadMode s.mem = .unwritten a) :
    exec .bweCalc s = .fault (.unwrittenSlot a) ∧ exec .bweBwcalcs s = .fault (.unwrittenSlot a) := by
  constructor
  · show withLegalMode _ _ _ = _
    rw [withLegalMode, unwritten]
  · show withLegalMode _ _ _ = _
    rw [withLegalMode, unwritten]

theorem withLegalMode_of_unwrittenCapability {mode : Mode} {a : Nat} {needs : Mode → Bool} {run : Mode → State}
    (legal : loadMode s.mem = .legal mode) (missing : firstUnwritten s.mem capabilityOffsets = some a)
    (needed : needs mode = true) : withLegalMode s needs run = .fault (.unwrittenSlot a) := by
  rw [withLegalMode, legal]
  simp only [needed, if_true, missing]

theorem loadMode_of_unwrittenCount {m : Memory} (h : (m.slot 0x2000).isSome = false) : loadMode m = .unwritten 0x2000 := by
  have unwritten : m.slot 0x2000 = none := by simpa using h
  have none : m.slot (slotOffset modeBase 0) = none := unwritten
  rw [loadMode, none]
  rfl

/-- With a legal number of displays, an unwritten slot among the needed ones is found. -/
theorem loadMode_of_unwrittenSlot {m : Memory} (h0 : (m.slot 0x2000).isSome = true) (hn : modeCount m ≤ 6)
    (missing : ∃ k, NeededModeSlot (modeSlot m) (modeCount m) k ∧ (m.slot (0x2000 + 8 * k)).isSome = false) :
    ∃ k, NeededModeSlot (modeSlot m) (modeCount m) k ∧ (m.slot (0x2000 + 8 * k)).isSome = false
      ∧ loadMode m = .unwritten (0x2000 + 8 * k) := by
  obtain ⟨w, hw⟩ := Option.isSome_iff_exists.1 h0
  have count : modeCount m = w.toNat := modeCount_of_some m w hw
  have countSlot : m.slot (slotOffset modeBase 0) = some w := hw
  rw [count] at hn missing ⊢
  have legal : displayCountLegal w = true := (displayCountLegal_iff w).2 hn
  generalize search : firstUnwritten m ((modeSlotsNeeded (recordSlot m modeBase) w.toNat).map (slotOffset modeBase)) = found
  cases found with
  | none =>
    obtain ⟨k, needed, unwritten⟩ := missing
    have written := (firstUnwritten_eq_none _ _).1 search (slotOffset modeBase k)
      (List.mem_map.2 ⟨k, (mem_modeSlotsNeeded _ _ _).2 needed, rfl⟩)
    exact absurd written (by rw [show slotOffset modeBase k = 0x2000 + 8 * k from rfl, unwritten]; decide)
  | some a =>
    obtain ⟨listed, unwritten⟩ := firstUnwritten_eq_some _ _ _ search
    obtain ⟨k, needed, rfl⟩ := List.mem_map.1 listed
    refine ⟨k, (mem_modeSlotsNeeded _ _ _).1 needed, unwritten, ?_⟩
    simp only [loadMode, countSlot, legal, if_true, search]
    rfl

/-- Where a capability slot is unwritten, one of them is found. -/
theorem firstUnwritten_capability {m : Memory} (h : ¬capabilitiesWritten m) :
    ∃ a, firstUnwritten m capabilityOffsets = some a
      ∧ ((∃ k, k < 19 ∧ a = 0x1000 + 8 * k) ∨ ∃ k, k < 15 ∧ a = 0x1800 + 8 * k) ∧ (m.slot a).isSome = false := by
  generalize search : firstUnwritten m capabilityOffsets = found
  cases found with
  | none => exact absurd ((capabilities_iff m).1 search) h
  | some a =>
    obtain ⟨listed, unwritten⟩ := firstUnwritten_eq_some _ _ _ search
    simp only [capabilityOffsets, List.mem_append, List.mem_map, List.mem_range] at listed
    refine ⟨a, rfl, ?_, unwritten⟩
    rcases listed with ⟨k, hk, rfl⟩ | ⟨k, hk, rfl⟩
    · exact .inl ⟨k, hk, rfl⟩
    · exact .inr ⟨k, hk, rfl⟩

theorem loadMode_of_legal {m : Memory} (written : modeWritten m) (legal : LegalMode (modeSlot m)) :
    loadMode m = .legal (modeOf m) := by
  rw [loadMode_of_written m written, if_pos ((modeLegal_iff _).2 legal)]

end

/-- Settles O37: MODE_LEGAL is R200's list, and a number of displays above 6 is illegal before the other slots are read. -/
theorem illegalModeOnlySetsIll : Obligations.IllegalModeOnlySetsIll := by
  rintro s (⟨written, illegal⟩ | ⟨written, many⟩)
  · refine exec_of_illegalMode ?_
    rw [loadMode_of_written _ written, if_neg fun h => illegal ((modeLegal_iff _).1 h)]
  · exact exec_of_illegalMode (loadMode_of_count _ written many)

/-- Settles O38, by where the search for an unwritten field stops: the count, the needed slots of MODE, the capabilities. -/
theorem unwrittenFieldFaults : Obligations.UnwrittenFieldFaults := by
  intro s needed
  refine ⟨fun h => exec_of_unwrittenMode (loadMode_of_unwrittenCount h), fun h0 hn missing => ?_,
    fun written legal incomplete => ?_⟩
  · obtain ⟨k, hk, unwritten, load⟩ := loadMode_of_unwrittenSlot h0 hn missing
    exact ⟨k, hk, unwritten, exec_of_unwrittenMode load⟩
  · obtain ⟨a, search, place, unwritten⟩ := firstUnwritten_capability incomplete
    have load := loadMode_of_legal written legal
    refine ⟨a, place, unwritten, withLegalMode_of_unwrittenCapability load search rfl, fun displays => ?_⟩
    exact withLegalMode_of_unwrittenCapability load search (by simpa [modeOf_n] using Nat.succ_le_iff.1 displays)

end Sys2Proof.Machine
end

section
/-!
What BWE.CALC reads and leaves, slot by slot (10_state.md R31 to R35, R45; 45_bwe_calculate.md R200, R203, R232, R235).
-/

namespace Sys2Proof.Machine

/-! ## Slots that hold words, codes and BOOLs -/

/-- A run of written slots holds the words read from it. -/
theorem holdsWords_of_written {m : Memory} {a n : Nat} {ws : List W64} (written : ∀ k, k < n → (m.slot (a + 8 * k)).isSome)
    (read : ws = (List.range n).map fun k => (m.slot (a + 8 * k)).getD 0) : HoldsWords m a ws := by
  subst read
  intro k h
  obtain ⟨w, hw⟩ := Option.isSome_iff_exists.1 (written k (by simpa using h))
  simp [hw]

theorem holdsCode_of_written {α : Type} {m : Memory} {a : Nat} {names : List α} {x : α} (written : (m.slot a).isSome)
    (read : names[((m.slot a).getD 0).toNat]? = some x) : HoldsCode m a names x := by
  obtain ⟨w, hw⟩ := Option.isSome_iff_exists.1 written
  rw [hw] at read
  exact ⟨w, hw, read⟩

theorem holdsBool_of_written {m : Memory} {a : Nat} (written : (m.slot a).isSome) :
    HoldsBool m a (boolOfWord ((m.slot a).getD 0)) := by
  obtain ⟨w, hw⟩ := Option.isSome_iff_exists.1 written
  rw [hw]
  exact ⟨w, hw, by simp [boolOfWord]⟩

section

variable {w : W64}

theorem underlayFormatOfCode_name (legal : w ∈ ([0, 1, 2] : List W64)) :
    underlayFormatNames[w.toNat]? = some ((underlayFormatOfCode w).getD default) := by
  simp only [List.mem_cons, List.not_mem_nil, or_false] at legal
  rcases legal with rfl | rfl | rfl <;> rfl

theorem panningOfCode_name (legal : w ∈ ([0, 1, 2] : List W64)) :
    panningNames[w.toNat]? = some ((panningOfCode w).getD default) := by
  simp only [List.mem_cons, List.not_mem_nil, or_false] at legal
  rcases legal with rfl | rfl | rfl <;> rfl

theorem underlayModeOfCode_name (legal : w ∈ ([0, 1, 2] : List W64)) :
    underlayModeNames[w.toNat]? = some ((underlayModeOfCode w).getD default) := by
  simp only [List.mem_cons, List.not_mem_nil, or_false] at legal
  rcases legal with rfl | rfl | rfl <;> rfl

theorem stereoModeOfCode_name (legal : w ∈ ([0, 1, 2] : List W64)) :
    stereoNames[w.toNat]? = some ((stereoModeOfCode w).getD default) := by
  simp only [List.mem_cons, List.not_mem_nil, or_false] at legal
  rcases legal with rfl | rfl | rfl <;> rfl

theorem tilingModeOfCode_name (legal : w ∈ ([0, 1] : List W64)) :
    tilingNames[w.toNat]? = some ((tilingModeOfCode w).getD default) := by
  simp only [List.mem_cons, List.not_mem_nil, or_false] at legal
  rcases legal with rfl | rfl <;> rfl

end

/-! ## DCEIP and VBIOS (R31, R32) -/

theorem dceipLayout_of_written {m : Memory} (written : m.slotsWritten 0x1000 19) : DceipLayout m (loadDceip m) where
  words := holdsWords_of_written (n := 16) (fun k hk => written k (by omega)) rfl
  predownscaler := holdsBool_of_written (written 16 (by decide))
  buffers := holdsWords_of_written (n := 2)
    (fun k hk => by rw [show 0x1000 + 8 * 17 + 8 * k = 0x1000 + 8 * (17 + k) by omega]; exact written _ (by omega)) rfl
  reserved := rfl

theorem vbiosLayout_of_written {m : Memory} (written : m.slotsWritten 0x1800 15) : VbiosLayout m (loadVbios m) where
  words := holdsWords_of_written (n := 15) written rfl
  reserved := rfl

/-! ## MODE (R33, R34) -/

section

variable {m : Memory}

theorem displayLayout_of_written {k : Nat} (written : ∀ j, j < 15 → (m.slot (0x2000 + 8 * (16 + 16 * k + j))).isSome)
    (legal : LegalDisplay (modeSlot m) k) : DisplayLayout m (0x2000 + 8 * (16 + 16 * k)) (loadDisplay (modeSlot m) k) := by
  have place (j : Nat) : 0x2000 + 8 * (16 + 16 * k) + 8 * j = 0x2000 + 8 * (16 + 16 * k + j) := by omega
  have field (j : Nat) (hj : j < 15) : (m.slot (0x2000 + 8 * (16 + 16 * k) + 8 * j)).isSome := by
    rw [place]; exact written j hj
  have raw (j : Nat) : modeSlot m (displaySlot k j) = (m.slot (0x2000 + 8 * (16 + 16 * k) + 8 * j)).getD 0 := by
    rw [place]; rfl
  have bool (j : Nat) (hj : j < 15) :
      HoldsBool m (0x2000 + 8 * (16 + 16 * k) + 8 * j) (boolOfWord (modeSlot m (displaySlot k j))) := by
    rw [raw]; exact holdsBool_of_written (field j hj)
  have stereo := stereoModeOfCode_name legal.stereo
  have tiling := tilingModeOfCode_name legal.tiling
  rw [show 26 + 16 * k = displaySlot k 10 by simp only [displaySlot]; omega] at stereo
  rw [show 28 + 16 * k = displaySlot k 12 by simp only [displaySlot]; omega] at tiling
  refine ⟨holdsWords_of_written (n := 10) (fun j hj => field j (by omega)) ?_, ?_, bool 11 (by decide), ?_, bool 13 (by decide),
    bool 14 (by decide)⟩
  · simp only [← raw]
    rfl
  · exact holdsCode_of_written (field 10 (by decide)) (by rw [← raw]; exact stereo)
  · exact holdsCode_of_written (field 12 (by decide)) (by rw [← raw]; exact tiling)

theorem underlayLayout_of_written (written : ∀ k, 112 ≤ k → k ≤ 120 → (m.slot (0x2000 + 8 * k)).isSome)
    (legal : LegalUnderlay (modeSlot m)) : UnderlayLayout m (loadUnderlay (modeSlot m)) where
  words := holdsWords_of_written (n := 7)
    (fun k hk => by
      rw [show 0x2000 + 8 * 112 + 8 * k = 0x2000 + 8 * (112 + k) by omega]
      exact written _ (by omega) (by omega)) rfl
  tiling := holdsCode_of_written (written 119 (by decide) (by decide)) (tilingModeOfCode_name legal.tiling)
  scatterGather := holdsBool_of_written (written 120 (by decide) (by decide))

theorem writebackLayout_of_written (written : ∀ k, 128 ≤ k → k ≤ 135 → (m.slot (0x2000 + 8 * k)).isSome)
    (legal : LegalWriteback (modeSlot m)) : WritebackLayout m (loadWriteback (modeSlot m)) where
  words := holdsWords_of_written (n := 7)
    (fun k hk => by
      rw [show 0x2000 + 8 * 128 + 8 * k = 0x2000 + 8 * (128 + k) by omega]
      exact written _ (by omega) (by omega)) rfl
  tiling := holdsCode_of_written (written 135 (by decide) (by decide)) (tilingModeOfCode_name legal.tiling)

theorem modeOf_display {k : Nat} (h : k < modeCount m) : (modeOf m).display k = loadDisplay (modeSlot m) k := by
  have h' : k < (modeSlot m 0).toNat := h
  simp [Mode.display, modeOf, modeOfSlots, h']

/-- A mode that uses an underlay is read from a nonzero code. -/
theorem usesUnderlay_of_modeOf {u : Nat} (hu : u < (modeOf m).n) (used : (modeOf m).underlayMode u ≠ .none) :
    UsesUnderlay (modeSlot m) (modeCount m) := by
  rw [modeOf_n] at hu
  match u, hu, used with
  | 0, hu, used =>
    refine .inl ⟨hu, fun zero => used ?_⟩
    show (underlayModeOfCode (modeSlot m 4)).getD default = .none
    rw [zero]
    rfl
  | 1, hu, used =>
    refine .inr ⟨hu, fun zero => used ?_⟩
    show (underlayModeOfCode (modeSlot m 5)).getD default = .none
    rw [zero]
    rfl
  | _ + 2, _, used => exact absurd rfl used

theorem modeLayout_of_ready (written : modeWritten m) (legal : LegalMode (modeSlot m)) : ModeLayout m (modeOf m) := by
  obtain ⟨count, small, slots⟩ := written
  obtain ⟨w, hw⟩ := Option.isSome_iff_exists.1 count
  have global (k : Nat) (lo : 1 ≤ k) (hi : k ≤ 5) : (m.slot (0x2000 + 8 * k)).isSome := slots k (.inl ⟨lo, hi⟩)
  refine ⟨?_, ?_, ?_, ?_, fun u hu => ?_, fun k hk => ?_, fun u hu used => ?_, fun one enabled => ?_⟩
  · rw [hw, modeOf_n, modeCount_of_some m w hw, BitVec.ofNat_toNat, BitVec.setWidth_eq]
  · exact holdsCode_of_written (global 1 (by decide) (by decide)) (underlayFormatOfCode_name (legal.global 1 (by simp)))
  · exact holdsCode_of_written (global 2 (by decide) (by decide)) (panningOfCode_name (legal.global 2 (by simp)))
  · exact holdsBool_of_written (global 3 (by decide) (by decide))
  · match u, hu with
    | 0, _ => exact holdsCode_of_written (global 4 (by decide) (by decide)) (underlayModeOfCode_name (legal.global 4 (by simp)))
    | 1, _ => exact holdsCode_of_written (global 5 (by decide) (by decide)) (underlayModeOfCode_name (legal.global 5 (by simp)))
  · rw [modeOf_n] at hk
    rw [modeOf_display hk]
    exact displayLayout_of_written (fun j hj => slots _ (.inr (.inl ⟨k, hk, by omega, by omega⟩))) (legal.display k hk)
  · have uses := usesUnderlay_of_modeOf hu used
    have read : (modeOf m).underlay = loadUnderlay (modeSlot m) := if_pos ((underlayUsed_iff _ _).2 uses)
    rw [read]
    exact underlayLayout_of_written (fun k lo hi => slots k (.inr (.inr (.inl ⟨uses, lo, hi⟩)))) (legal.underlay uses)
  · have uses : UsesWriteback (modeSlot m) (modeCount m) := by
      rw [modeOf_n] at one
      exact ⟨one, by simpa [modeOf, modeOfSlots, boolOfWord] using enabled⟩
    have read : (modeOf m).writeback = loadWriteback (modeSlot m) := if_pos ((writebackUsed_iff _ _).2 uses)
    rw [read]
    exact writebackLayout_of_written (fun k lo hi => slots k (.inr (.inr (.inr ⟨uses, lo, hi⟩)))) (legal.writeback uses)

end

/-! ## RESULTS (R35, R45) -/

theorem codeIn_checkNames (x : CheckResult) : codeIn checkNames x = x.code := by cases x <;> rfl
theorem codeIn_voltageNames (x : Voltage) : codeIn voltageNames x = x.code := by cases x <;> rfl
theorem codeIn_surfaceTypeNames (x : SurfaceType) : codeIn surfaceTypeNames x = x.code := by cases x <;> rfl
theorem codeIn_stereoNames (x : StereoMode) : codeIn stereoNames x = x.code := by cases x <;> rfl
theorem codeIn_tilingNames (x : TilingMode) : codeIn tilingNames x = x.code := by cases x <;> rfl
theorem codeIn_tierNames (x : Tier) : codeIn tierNames x = wordOfNat x.rank := by cases x <;> rfl

theorem resultsScalars_eq (r : Results) : resultsScalars r = (List.range 36).map r.slot := by
  simp only [resultsScalars, codeIn_checkNames, codeIn_voltageNames, codeIn_tierNames]
  rfl

theorem resultsAvailable_eq (r : Results) : resultsAvailable r = (List.range 10).map fun k => r.slot (90 + k) := rfl

theorem surfaceFields_eq (s : Surface) : surfaceFields s = (List.range 36).map s.array := by
  simp only [surfaceFields, codeIn_surfaceTypeNames, codeIn_stereoNames, codeIn_tilingNames]
  rfl

theorem getD_map_range {n k : Nat} (f : Nat → W64) (h : k < n) : ((List.range n).map f).getD k 0 = f k := by
  simp [List.getD_eq_getElem?_getD, h]

theorem Results.slot_reserved (r : Results) {k : Nat} (lo : 100 ≤ k) (hi : k < 128) : r.slot k = extSlot r.ext k := by
  rw [Results.slot, if_pos hi]
  unfold Results.scalarSlot
  split
  case h_47 => rw [if_neg (by omega)]
  all_goals omega

theorem Results.slot_of_place (r : Results) {k j : Nat} {i : Slot} (lo : 128 ≤ k) (array : (k - 128) / 16 = j)
    (index : (k - 128) % 16 = i.val) (h : j < 36) : r.slot k = r.surfaces[i].array j := by
  have inside : (k - 128) % 16 < 12 := index ▸ i.isLt
  obtain rfl : i = ⟨(k - 128) % 16, inside⟩ := Fin.ext index.symm
  subst array
  rw [Results.slot, if_neg (Nat.not_lt.2 lo), dif_pos inside, if_pos h]

theorem Results.slot_array (r : Results) (i : Slot) {j : Nat} (h : j < 36) :
    r.slot (128 + 16 * j + i.val) = r.surfaces[i].array j :=
  r.slot_of_place (by omega) (by omega) (by omega) h

theorem Results.slot_extension (r : Results) (i : Slot) {j : Nat} (lo : 36 ≤ j) :
    r.slot (128 + 16 * j + i.val) = extSlot r.ext (128 + 16 * j + i.val) := by
  have hi := i.isLt
  rw [Results.slot, if_neg (by omega), dif_pos (by omega), if_neg (by omega)]

theorem Results.slot_unused (r : Results) {i j : Nat} (lo : 12 ≤ i) (hi : i < 16) : r.slot (128 + 16 * j + i) = 0 := by
  rw [Results.slot, if_neg (by omega), dif_neg (by omega)]

theorem resultsLayout (r : Results) : ResultsLayout r where
  scalars k hk := by rw [resultsScalars_eq, getD_map_range _ hk]
  margin := r.slot_margin
  dispclk := r.slot_dispclkRequired
  available k hk := by rw [resultsAvailable_eq, getD_map_range _ hk]
  reserved _ lo hi := r.slot_reserved lo hi
  arrays i j hj := by rw [surfaceFields_eq, getD_map_range _ hj, r.slot_array i hj]
  extension i _ lo _ := r.slot_extension i lo
  unused _ _ lo hi _ := r.slot_unused lo hi

/-! ## CALC with its records ready -/

theorem exec_bweCalc_of_ready {s : State} (ready : CalcReady s.mem) : exec .bweCalc s = .next (s.calc (envOf s.mem)) :=
  withLegalMode_of_ready s _ _ ready

theorem State.calc_slot (s : State) (env : CalcEnv) {k : Nat} (h : k < 2048) :
    (s.calc env).mem.slot (0x4000 + 8 * k) = some ((calcCore env (CalcState.start s.draws)).2.results.slot k) := by
  rw [State.calc_mem]
  exact slot_storeResults s _ k h

/-- BWE_STATUS after CALC, with the bits that the calculation raises. -/
theorem State.calc_bweStatus_eq (s : State) (env : CalcEnv) :
    (s.calc env).bweStatus = s.bweStatus ||| 0x10 ||| (if (calcCore env (CalcState.start s.draws)).2.dz then 4 else 0)
      ||| (if (calcCore env (CalcState.start s.draws)).2.ov then 8 else 0) := by
  rw [State.calc]
  generalize (calcCore env (CalcState.start s.draws)).2 = c
  have or_right (x y z : W32) : x ||| y ||| z = x ||| z ||| y := by rw [BitVec.or_assoc, BitVec.or_comm y, ← BitVec.or_assoc]
  cases hd : c.dz <;> cases ho : c.ov <;>
    simp [hd, ho, bweStatusBit, resValidBit, or_right _ _ (16#32)]

theorem State.calc_bweVersion (s : State) (env : CalcEnv) : (s.calc env).bweVersion = s.bweVersion := by
  simp [State.calc]

/-- Settles O39. -/
theorem calcCompletes : Obligations.CalcCompletes := by
  refine ⟨onlyWord_encode rfl rfl, ?_⟩
  intro s ready env c
  refine ⟨dceipLayout_of_written ready.capabilities.1, vbiosLayout_of_written ready.capabilities.2,
    modeLayout_of_ready ready.mode ready.legal, resultsLayout _, s.calc env, exec_bweCalc_of_ready ready,
    fun k hk => s.calc_slot env hk, fun a outside => ?_, s.calc_bweStatus_eq env, s.calc_bweVersion env, s.calc_frame env⟩
  rw [State.calc_mem]
  exact read_storeResults_outside s _ a outside

end Sys2Proof.Machine
end

section
/-!
CALC and BWCALCS with their records ready, from one state and from two: the verdict and the scalars of OUTPUT (46_bwe_bwcalcs.md
R267 to R272), RESULTS as a function of the records (45_bwe_calculate.md R232, R233), and scenario A (44_bwe_init.md R192).
-/

namespace Sys2Proof.Machine

/-! ## The verdict (R267, R268, R272) -/

/-- CONV_KHZ of a word (R268). -/
def khzOf (x : W64) : W64 := (timesThousand x).getD 0

theorem convKhz_value (x : W64) (c : CalcState) : (convKhz x c).1 = khzOf x := by
  have value : timesThousand x = some (convKhz x c).1 := markNs_value x c
  rw [khzOf, value, Option.getD_some]

theorem timesThousand_eq (x : W64) : timesThousand x = some (khzOf x) := by
  rw [markNs_value x (CalcState.start 0), ← convKhz_value x (CalcState.start 0)]
  rfl

/-- What OUTPUT says of pass a: its clocks in kHz, its enables, and whether both clocks are within the caller's limits. `runPass` and
`convKhz` are made opaque, so that the kernel does not run a pass. -/
theorem evaluate_scalars (env : CalcEnv) (c : CalcState) :
    let r := resultsOf env c.draws
    let o := (evaluate env c).1
    o.dispclkKhz = khzOf r.dispclk ∧ o.requiredSclk = khzOf r.requiredSclk ∧ o.requiredYclk = khzOf r.requiredYclk
      ∧ o.stateChangeEnable = r.stateChangeEnable
      ∧ o.supported = verdict (khzOf r.dispclk) (khzOf r.requiredSclk) (khzOf env.vbios.maxDispclk.high)
        (khzOf env.vbios.sclk.high) := by
  intro r
  have results : (runPass env .a c).2.results = r := runPass_results env .a c
  clear_value r
  have value := convKhz_value
  obtain ⟨pass, pass_eq⟩ : ∃ pass, pass = runPass env := exists_eq
  obtain ⟨conv, conv_eq⟩ : ∃ conv, conv = convKhz := exists_eq
  rw [evaluate, ← pass_eq, ← conv_eq]
  rw [← pass_eq] at results
  rw [← conv_eq] at value
  simp only [CalcM.bind_apply, CalcM.pure_apply, getResults_apply, value, results, and_self]

theorem verdict_eq (dispclk sclk maxDispclk maxSclk : W64) : verdict dispclk sclk maxDispclk maxSclk
    = decide (dispclk.toInt ≤ maxDispclk.toInt ∧ sclk.toInt ≤ maxSclk.toInt) := (Bool.decide_and _ _).symm

theorem State.evaluate_scalar (s : State) (env : CalcEnv) {k : Nat} (h : k < 7) :
    (s.evaluate env).mem.slot (0x2800 + 8 * k) = (Machine.evaluate env (CalcState.start s.draws)).1.scalars[k]? := by
  rw [State.evaluate_mem, List.getElem?_eq_getElem (by simpa using h)]
  exact slot_storeOutput_scalar _ _ k h

/-- The bits set and assigned in the order of the model are those of the rules. -/
theorem verdictBits (w : W32) (dz ov supported : Bool) :
    assignBit ((if ov then (if dz then w ||| bweStatusBit .dz else w) ||| bweStatusBit .ov
        else if dz then w ||| bweStatusBit .dz else w) ||| resValidBit) supportedBit supported ||| outValidBit
      = (if supported then w ||| 1 else w &&& ~~~1) ||| 0x30 ||| (if dz then 4 else 0) ||| (if ov then 8 else 0) := by
  cases dz <;> cases ov <;> cases supported <;>
    simp only [assignBit, if_true, if_false, Bool.false_eq_true, and_or_and, BitVec.or_assoc] <;> rfl

/-- BWE_STATUS after an evaluation: the verdict, the valid bits, and the bits that the evaluation raises. -/
theorem State.evaluate_bweStatus_eq (s : State) (env : CalcEnv) :
    (s.evaluate env).bweStatus = (if (Machine.evaluate env (CalcState.start s.draws)).1.supported then s.bweStatus ||| 1 else s.bweStatus &&& ~~~1)
      ||| 0x30 ||| (if (Machine.evaluate env (CalcState.start s.draws)).2.dz then 4 else 0)
      ||| (if (Machine.evaluate env (CalcState.start s.draws)).2.ov then 8 else 0) := by
  rw [State.evaluate]
  generalize Machine.evaluate env (CalcState.start s.draws) = r
  simp only [State.setVerdict_bweStatus, State.setResValid_bweStatus, State.recordCalc_bweStatus, State.raiseBweIf_bweStatus,
    State.storeOutput_bweStatus, State.storeResults_bweStatus]
  exact verdictBits s.bweStatus r.2.dz r.2.ov r.1.supported

theorem State.evaluate_bweVersion (s : State) (env : CalcEnv) : (s.evaluate env).bweVersion = s.bweVersion := by
  simp [State.evaluate]

theorem State.read_evaluate_outside (s : State) (env : CalcEnv) {a : Nat} (results : ¬(0x4000 ≤ a ∧ a < 0x8000))
    (scalars : ¬(0x2800 ≤ a ∧ a < 0x2838)) (marks : ¬(0x2840 ≤ a ∧ a < 0x2A80)) :
    (s.evaluate env).mem.read a = s.mem.read a := by
  rw [State.evaluate_mem, read_storeOutput_outside _ _ (evaluate_marks_length _ _) _ scalars marks,
    read_storeResults_outside _ _ _ results]

/-- Settles O58: the evaluation's scalars are stored in OUTPUT slots 0 to 6, and its verdict in BWE_STATUS. -/
theorem bwcalcsVerdict : Obligations.BwcalcsVerdict := by
  refine ⟨onlyWord_encode rfl rfl, ?_⟩
  intro s ready count r v done
  have scalars := evaluate_scalars (envOf s.mem) (CalcState.start s.draws)
  have stored := fun {k : Nat} (h : k < 7) => s.evaluate_scalar (envOf s.mem) h
  have status := s.evaluate_bweStatus_eq (envOf s.mem)
  have rest := fun {a : Nat} => s.read_evaluate_outside (envOf s.mem) (a := a)
  rw [show resultsOf (envOf s.mem) (CalcState.start s.draws).draws = r from rfl] at scalars
  rw [show (Machine.evaluate (envOf s.mem) (CalcState.start s.draws)).2 = done from rfl] at status
  have run := exec_bweBwcalcs_of_ready ready count
  clear_value r done
  generalize (Machine.evaluate (envOf s.mem) (CalcState.start s.draws)).1 = o at scalars stored status
  obtain ⟨dispclk, sclk, yclk, enables, supported⟩ := scalars
  rw [verdict_eq, ← dispclk, ← sclk] at supported
  rw [← enables]
  simp only [timesThousand_eq]
  exact ⟨s.evaluate (envOf s.mem), o.dispclkKhz, o.requiredSclk, o.requiredYclk, _, _, o.supported, run, congrArg some dispclk.symm,
    congrArg some sclk.symm, congrArg some yclk.symm, rfl, rfl, supported, stored (k := 0) (by decide), stored (k := 1) (by decide),
    stored (k := 2) (by decide), stored (k := 3) (by decide), stored (k := 4) (by decide), stored (k := 5) (by decide),
    stored (k := 6) (by decide), status, fun a h1 h2 h3 => rest h1 h2 h3, s.evaluate_bweVersion _, s.evaluate_frame _⟩


/-! ## A failed mode (R228, R272) -/

theorem Fx.mul_word? (a b : W64) :
    (Fx.mul a b).word? = some (withSigns a.toInt b.toInt (Fx.mulSum (Fx.mag a) (Fx.mag b))) := by
  rw [Fx.mul, Fx.withOv_word?, Fx.signed_eq_withSigns]

theorem Fx.toInt_word? (a : W64) : (Fx.toInt a).word? = some (BitVec.ofInt 64 ((a.toInt >>> 24).bmod (2 ^ 32))) := by
  have tested := Fx.toInt_tested a
  rw [FxResult.TestedFor] at tested
  rw [tested, Fx.withOv_word?]

/-- CONV_KHZ of a clock below the sentinel stays below that of the sentinel. -/
theorem khzOf_lt {x : W64} (lo : 0 ≤ x.toInt) (hi : x.toInt < 9999 * 2 ^ 24) : (khzOf x).toInt < 9999000 := by
  have thousand : (Fx.ofInteger 1000).toInt = 1000 * 2 ^ 24 := toInt_ofInteger (by decide) (by decide)
  have magnitude : Fx.mag (Fx.ofInteger 1000) = 1000 * 2 ^ 24 := by rw [Fx.mag, thousand]; rfl
  have sum : Fx.mulSum (Fx.mag x) (Fx.mag (Fx.ofInteger 1000)) = x.toInt.natAbs * 1000 := by
    rw [magnitude, Fx.mulSum_of_whole, Fx.mag]
  have product : (withSigns x.toInt (Fx.ofInteger 1000).toInt (x.toInt.natAbs * 1000)).toInt = x.toInt * 1000 := by
    rw [toInt_withSigns _ _ (by omega), signedInt, thousand, if_pos (by omega)]
    omega
  have shift : (x.toInt * 1000) >>> 24 = x.toInt * 1000 / 2 ^ 24 :=
    (Int.shiftRight_natCast_right _ 24).trans (Int.shiftRight_eq_div_pow _ 24)
  have value := timesThousand_eq x
  rw [timesThousand, Fx.mul_word?, Option.bind_some, Fx.toInt_word?, sum, product, shift] at value
  rw [← Option.some.inj value, Int.bmod_eq_of_le (by omega) (by omega), toInt_ofInt_of_range] <;> omega

theorem khzOf_sentinel : khzOf 0x270F000000 = 9999000 := by decide

/-- A pass a that fails has the sentinel for both clocks. -/
theorem resultsOf_of_failedMode {env : CalcEnv} {draws : Nat} (displays : env.mode.n ≠ 0)
    (failed : (resultsOf env draws).modeCheck = .notok) :
    (resultsOf env draws).dispclk = 0x270F000000 ∧ (resultsOf env draws).requiredSclk = 0x270F000000 := by
  obtain ⟨-, notok, sentinels, -⟩ := infeasibleForcesSentinel env draws
  exact sentinels (notok.2 ⟨displays, .inl (by rw [failed]; decide)⟩)

theorem bitSet_unsupported (w x : W32) (h : x &&& supportedBit = 0) : bitSet (w &&& ~~~1 ||| x) supportedBit = false := by
  have clear : (w &&& ~~~1) &&& supportedBit = 0 := by
    rw [BitVec.and_assoc, show ~~~(1 : W32) &&& supportedBit = 0#32 by decide]
    exact BitVec.and_zero
  rw [bitSet, and_or_and, h, clear]
  decide

/-- Settles O60: the sentinel in kHz is above every limit below the sentinel. -/
theorem failedModeIsUnsupported : Obligations.FailedModeIsUnsupported := by
  intro s ready count failed lo hi
  have displays : (envOf s.mem).mode.n ≠ 0 := by rwa [envOf, calcEnv, modeOf_n]
  obtain ⟨dispclk, requiredSclk⟩ := resultsOf_of_failedMode displays failed
  obtain ⟨khz, sclk, -, -, supported⟩ := evaluate_scalars (envOf s.mem) (CalcState.start s.draws)
  have stored := fun {k : Nat} (h : k < 7) => s.evaluate_scalar (envOf s.mem) h
  have status := s.evaluate_bweStatus_eq (envOf s.mem)
  have draws : (CalcState.start s.draws).draws = s.draws := rfl
  rw [draws, dispclk, khzOf_sentinel] at khz
  rw [draws, requiredSclk, khzOf_sentinel] at sclk
  have limit := khzOf_lt lo hi
  have refused : (Machine.evaluate (envOf s.mem) (CalcState.start s.draws)).1.supported = false := by
    rw [supported, draws, dispclk, khzOf_sentinel, verdict_eq]
    have sentinel : (9999000 : W64).toInt = 9999000 := by decide
    exact decide_eq_false fun h => absurd h.1 (by rw [sentinel]; exact not_le.2 limit)
  refine ⟨s.evaluate (envOf s.mem), exec_bweBwcalcs_of_ready ready count, ?_, ?_, ?_, ?_⟩
  · refine (stored (k := 0) (by decide)).trans (congrArg some ?_)
    rw [refused]
    rfl
  · rw [status, refused]
    simp only [Bool.false_eq_true, if_false, BitVec.or_assoc]
    refine bitSet_unsupported _ _ ?_
    cases (Machine.evaluate (envOf s.mem) (CalcState.start s.draws)).2.dz <;>
      cases (Machine.evaluate (envOf s.mem) (CalcState.start s.draws)).2.ov <;> rfl
  · exact (stored (k := 1) (by decide)).trans (congrArg some khz)
  · exact (stored (k := 2) (by decide)).trans (congrArg some sclk)

end Sys2Proof.Machine
end

section
/-!
What CALC takes from the records: two states whose needed fields agree read the same DCEIP, VBIOS and MODE, and so get the same RESULTS
(45_bwe_calculate.md R232, R233; 44_bwe_init.md R192).
-/

namespace Sys2Proof.Machine

/-! ## MODE depends on its needed slots alone (R313) -/

/-- The slots that a MODE of n displays needs read the same. -/
structure SameMode (raw raw' : Nat → W64) : Prop where
  count : raw' 0 = raw 0
  needed : ∀ k, NeededModeSlot raw (raw 0).toNat k → raw' k = raw k

section

variable {raw raw' : Nat → W64}

theorem SameMode.global (h : SameMode raw raw') {k : Nat} (lo : 1 ≤ k) (hi : k ≤ 5) : raw' k = raw k :=
  h.needed k (.inl ⟨lo, hi⟩)

theorem SameMode.display (h : SameMode raw raw') {d k : Nat} (hd : d < (raw 0).toNat) (lo : 16 + 16 * d ≤ k)
    (hi : k ≤ 30 + 16 * d) : raw' k = raw k :=
  h.needed k (.inr (.inl ⟨d, hd, lo, hi⟩))

theorem SameMode.usesUnderlay (h : SameMode raw raw') (n : Nat) : UsesUnderlay raw' n ↔ UsesUnderlay raw n := by
  simp only [UsesUnderlay, h.global (k := 4) (by decide) (by decide), h.global (k := 5) (by decide) (by decide)]

theorem SameMode.usesWriteback (h : SameMode raw raw') (n : Nat) : UsesWriteback raw' n ↔ UsesWriteback raw n := by
  simp only [UsesWriteback, h.global (k := 3) (by decide) (by decide)]

theorem SameMode.neededModeSlot (h : SameMode raw raw') (n k : Nat) : NeededModeSlot raw' n k ↔ NeededModeSlot raw n k := by
  simp only [NeededModeSlot, h.usesUnderlay, h.usesWriteback]

theorem SameMode.legalDisplay (h : SameMode raw raw') {d : Nat} (hd : d < (raw 0).toNat) (legal : LegalDisplay raw d) :
    LegalDisplay raw' d := by
  have same {k : Nat} (lo : 16 + 16 * d ≤ k) (hi : k ≤ 30 + 16 * d) : raw' k = raw k := h.display hd lo hi
  obtain ⟨positive, hTaps, vTaps, bytesPerPixel, rotation, stereo, tiling⟩ := legal
  constructor
  · intro j hj
    rw [same (by omega) (by omega)]
    exact positive j hj
  all_goals rw [same (by omega) (by omega)]; assumption

theorem SameMode.legalUnderlay (h : SameMode raw raw') (uses : UsesUnderlay raw (raw 0).toNat) (legal : LegalUnderlay raw) :
    LegalUnderlay raw' := by
  have same {k : Nat} (lo : 112 ≤ k) (hi : k ≤ 120) : raw' k = raw k := h.needed k (.inr (.inr (.inl ⟨uses, lo, hi⟩)))
  obtain ⟨positive, hTaps, vTaps, rotation, tiling⟩ := legal
  constructor
  · intro k lo hi
    rw [same lo (by omega)]
    exact positive k lo hi
  all_goals rw [same (by omega) (by omega)]; assumption

theorem SameMode.legalWriteback (h : SameMode raw raw') (uses : UsesWriteback raw (raw 0).toNat) (legal : LegalWriteback raw) :
    LegalWriteback raw' := by
  have same {k : Nat} (lo : 128 ≤ k) (hi : k ≤ 135) : raw' k = raw k := h.needed k (.inr (.inr (.inr ⟨uses, lo, hi⟩)))
  obtain ⟨positive, hTaps, vTaps, bytesPerPixel, tiling⟩ := legal
  constructor
  · intro k lo hi
    rw [same lo (by omega)]
    exact positive k lo hi
  all_goals rw [same (by omega) (by omega)]; assumption

theorem SameMode.legalMode (h : SameMode raw raw') (legal : LegalMode raw) : LegalMode raw' := by
  refine ⟨?_, fun k hk => ?_, fun d hd => ?_, fun uses => ?_, fun uses => ?_⟩
  · rw [h.count]; exact legal.count
  · have range : 1 ≤ k ∧ k ≤ 5 := by simp only [List.mem_cons, List.not_mem_nil, or_false] at hk; omega
    rw [h.global range.1 range.2]
    exact legal.global k hk
  · rw [h.count] at hd
    exact h.legalDisplay hd (legal.display d hd)
  · rw [h.count, h.usesUnderlay] at uses
    exact h.legalUnderlay uses (legal.underlay uses)
  · rw [h.count, h.usesWriteback] at uses
    exact h.legalWriteback uses (legal.writeback uses)

theorem SameMode.loadDisplay (h : SameMode raw raw') {d : Nat} (hd : d < (raw 0).toNat) :
    loadDisplay raw' d = loadDisplay raw d := by
  have same (j : Nat) (hj : j < 15) : raw' (displaySlot d j) = raw (displaySlot d j) :=
    h.display hd (by simp only [displaySlot]; omega) (by simp only [displaySlot]; omega)
  simp (disch := decide) only [Machine.loadDisplay, same]

theorem SameMode.loadUnderlay (h : SameMode raw raw') (uses : UsesUnderlay raw (raw 0).toNat) :
    loadUnderlay raw' = loadUnderlay raw := by
  have same (k : Nat) (range : 112 ≤ k ∧ k ≤ 120) : raw' k = raw k := h.needed k (.inr (.inr (.inl ⟨uses, range⟩)))
  simp (disch := decide) only [Machine.loadUnderlay, same]

theorem SameMode.loadWriteback (h : SameMode raw raw') (uses : UsesWriteback raw (raw 0).toNat) :
    loadWriteback raw' = loadWriteback raw := by
  have same (k : Nat) (range : 128 ≤ k ∧ k ≤ 135) : raw' k = raw k := h.needed k (.inr (.inr (.inr ⟨uses, range⟩)))
  simp (disch := decide) only [Machine.loadWriteback, same]

theorem SameMode.modeOfSlots (h : SameMode raw raw') : modeOfSlots raw' = modeOfSlots raw := by
  have global (k : Nat) (range : 1 ≤ k ∧ k ≤ 5) : raw' k = raw k := h.global range.1 range.2
  have displays : (List.range (raw 0).toNat).map (Machine.loadDisplay raw') = (List.range (raw 0).toNat).map (Machine.loadDisplay raw) :=
    List.map_congr_left fun d hd => h.loadDisplay (List.mem_range.1 hd)
  have underlayUse : underlayUsed raw' (raw 0).toNat = underlayUsed raw (raw 0).toNat := by
    rw [Bool.eq_iff_iff, underlayUsed_iff, underlayUsed_iff, h.usesUnderlay]
  have writebackUse : writebackUsed raw' (raw 0).toNat = writebackUsed raw (raw 0).toNat := by
    rw [Bool.eq_iff_iff, writebackUsed_iff, writebackUsed_iff, h.usesWriteback]
  have underlay : (if underlayUsed raw (raw 0).toNat = true then Machine.loadUnderlay raw' else default)
      = if underlayUsed raw (raw 0).toNat = true then Machine.loadUnderlay raw else default :=
    ite_congr rfl (fun uses => h.loadUnderlay ((underlayUsed_iff _ _).1 uses)) fun _ => rfl
  have writeback : (if writebackUsed raw (raw 0).toNat = true then Machine.loadWriteback raw' else default)
      = if writebackUsed raw (raw 0).toNat = true then Machine.loadWriteback raw else default :=
    ite_congr rfl (fun uses => h.loadWriteback ((writebackUsed_iff _ _).1 uses)) fun _ => rfl
  simp (disch := decide) only [Machine.modeOfSlots, h.count, global, displays, underlayUse, writebackUse, underlay, writeback]

end

/-- A needed slot of a legal number of displays lies in MODE. -/
theorem NeededModeSlot.lt {raw : Nat → W64} {n k : Nat} (hn : n ≤ 6) (h : NeededModeSlot raw n k) : k < 136 := by
  rcases h with h | ⟨d, hd, h⟩ | h | h <;> omega

theorem modeWritten_of_same {m m' : Memory} (h : SameMode (modeSlot m) (modeSlot m'))
    (same : ∀ k, k < 136 → (m.slot (0x2000 + 8 * k)).isSome → (m'.slot (0x2000 + 8 * k)).isSome) (written : modeWritten m) :
    modeWritten m' := by
  obtain ⟨count, small, slots⟩ := written
  have counts : modeCount m' = modeCount m := congrArg BitVec.toNat h.count
  refine ⟨same 0 (by decide) count, counts ▸ small, fun k hk => ?_⟩
  rw [counts, h.neededModeSlot] at hk
  exact same k (hk.lt small) (slots k hk)

/-! ## DCEIP and VBIOS depend on their 256 slots -/

theorem dceipOfSlots_congr {raw raw' : Nat → Option W64} (same : ∀ k, k < 256 → raw' k = raw k) :
    dceipOfSlots raw' = dceipOfSlots raw := by
  have reserved : reservedSlots raw' 19 = reservedSlots raw 19 :=
    List.map_congr_left fun j hj => same _ (by have := List.mem_range.1 hj; omega)
  simp (disch := decide) only [dceipOfSlots, reserved, same]

theorem vbiosOfSlots_congr {raw raw' : Nat → Option W64} (same : ∀ k, k < 256 → raw' k = raw k) :
    vbiosOfSlots raw' = vbiosOfSlots raw := by
  have reserved : reservedSlots raw' 15 = reservedSlots raw 15 :=
    List.map_congr_left fun j hj => same _ (by have := List.mem_range.1 hj; omega)
  simp (disch := decide) only [vbiosOfSlots, reserved, same]

/-! ## Two states with the same records (R232) -/

/-- DCEIP and VBIOS read the same in both. -/
def SameCapabilities (m m' : Memory) : Prop :=
  ∀ k, k < 256 → m'.slot (0x1000 + 8 * k) = m.slot (0x1000 + 8 * k) ∧ m'.slot (0x1800 + 8 * k) = m.slot (0x1800 + 8 * k)

section

variable {m m' : Memory}

theorem SameCapabilities.of_bytes (h : ∀ a, 0x1000 ≤ a → a < 0x2000 → m'.read a = m.read a) : SameCapabilities m m' :=
  fun _ hk => ⟨Memory.slot_congr _ _ _ fun _ hi => h _ (by omega) (by omega),
    Memory.slot_congr _ _ _ fun _ hi => h _ (by omega) (by omega)⟩

theorem SameCapabilities.loadDceip (h : SameCapabilities m m') : loadDceip m' = loadDceip m :=
  dceipOfSlots_congr fun k hk => (h k hk).1

theorem SameCapabilities.loadVbios (h : SameCapabilities m m') : loadVbios m' = loadVbios m :=
  vbiosOfSlots_congr fun k hk => (h k hk).2

theorem SameCapabilities.written (h : SameCapabilities m m') (written : capabilitiesWritten m) : capabilitiesWritten m' := by
  obtain ⟨dceip, vbios⟩ := written
  refine ⟨fun k hk => ?_, fun k hk => ?_⟩
  · rw [(h k (by omega)).1]; exact dceip k hk
  · rw [(h k (by omega)).2]; exact vbios k hk

end

/-- What a calculation leaves does not depend on the counter where it raises no DZ. -/
theorem calcCore_start (env : CalcEnv) {draws draws' : Nat}
    (h : draws' = draws ∨ (calcCore env (CalcState.start draws)).2.dz = false) :
    (calcCore env (CalcState.start draws')).2.results = (calcCore env (CalcState.start draws)).2.results
      ∧ (calcCore env (CalcState.start draws')).2.dz = (calcCore env (CalcState.start draws)).2.dz
      ∧ (calcCore env (CalcState.start draws')).2.ov = (calcCore env (CalcState.start draws)).2.ov := by
  obtain ⟨-, results, -, dz, ov⟩ := (calcCore_sameResults env).same (CalcState.start draws) (CalcState.start draws') rfl h
  exact ⟨results, dz rfl, ov rfl⟩

/-- The bits of BWE_STATUS that a calculation sets. -/
def calcBits (c : CalcState) : W32 := 0x10 ||| ((if c.dz then 4 else 0) ||| if c.ov then 8 else 0)

theorem State.calc_bweStatus_eq_bits (s : State) (env : CalcEnv) :
    (s.calc env).bweStatus = s.bweStatus ||| calcBits (calcCore env (CalcState.start s.draws)).2 := by
  rw [State.calc_bweStatus_eq, calcBits, BitVec.or_assoc, BitVec.or_assoc]

/-- Settles O40: what CALC reads is the same in both states, and a calculation without DZ does not depend on the counter. -/
theorem calcIdempotent : Obligations.CalcIdempotent := by
  intro s s' same ready counter
  have slots (k : Nat) (hk : k < 256) : s'.mem.slot (0x2000 + 8 * k) = s.mem.slot (0x2000 + 8 * k) :=
    Memory.slot_congr _ _ _ fun i hi => same _ (by omega) (by omega)
  have raw (k : Nat) (hk : k < 256) : modeSlot s'.mem k = modeSlot s.mem k := congrArg (Option.getD · 0) (slots k hk)
  have mode : SameMode (modeSlot s.mem) (modeSlot s'.mem) :=
    ⟨raw 0 (by decide), fun k hk => raw k (Nat.lt_trans (hk.lt ready.legal.count) (by decide))⟩
  have capabilities : SameCapabilities s.mem s'.mem := .of_bytes fun a lo hi => same a lo (by omega)
  have ready' : CalcReady s'.mem :=
    ⟨modeWritten_of_same mode (fun k hk => by rw [slots k (by omega)]; exact id) ready.mode, mode.legalMode ready.legal,
      capabilities.written ready.capabilities⟩
  have env : envOf s'.mem = envOf s.mem := by
    rw [envOf, envOf, calcEnv, calcEnv, modeOf, modeOf, mode.modeOfSlots, capabilities.loadDceip, capabilities.loadVbios]
  obtain ⟨results, dz, ov⟩ := calcCore_start (envOf s.mem) counter
  have bits' : calcBits (calcCore (envOf s.mem) (CalcState.start s'.draws)).2
      = calcBits (calcCore (envOf s.mem) (CalcState.start s.draws)).2 := by rw [calcBits, calcBits, dz, ov]
  refine ⟨s.calc (envOf s.mem), s'.calc (envOf s.mem), calcBits (calcCore (envOf s.mem) (CalcState.start s.draws)).2,
    exec_bweCalc_of_ready ready, ?_, fun a lo hi => ?_, s.calc_bweStatus_eq_bits _, ?_⟩
  · rw [← env]
    exact exec_bweCalc_of_ready ready'
  · rw [State.calc_mem, State.calc_mem, results, State.storeResults_mem, State.storeResults_mem, Memory.read_storeSlots,
      Memory.read_storeSlots]
    have inside : slotOffset resultsBase 0 ≤ a
        ∧ a < slotOffset resultsBase 0 + 8 * (calcCore (envOf s.mem) (CalcState.start s.draws)).2.results.slots.length := by
      rw [Results.slots_length]
      simp only [slotOffset, resultsBase]
      omega
    rw [if_pos inside, if_pos inside]
  · rw [← bits']
    exact s'.calc_bweStatus_eq_bits _

/-! ## A wider source (R233) -/

theorem clean_of_bweStatus {s : State} {env : CalcEnv} (h : (s.calc env).bweStatus &&& 0xC = 0) :
    (calcCore env (CalcState.start s.draws)).2.clean := by
  rw [State.calc_bweStatus_eq] at h
  generalize (calcCore env (CalcState.start s.draws)).2 = c at h
  generalize s.bweStatus ||| 0x10 = w at h
  have bits (k : Nat) := congrArg (fun v => BitVec.getLsbD v k) h
  have dz := bits 2
  have ov := bits 3
  rw [CalcState.clean]
  cases hd : c.dz <;> cases ho : c.ov <;> simp [hd, ho] at dz ov ⊢

theorem Results.slot_requiredDram (r : Results) : r.slot 22 = r.requiredDramBandwidthGbytePerSecond := rfl

/-- R233 for the calculations of this machine. -/
theorem requiredDram_mono (dceip : Dceip) (vbios : Vbios) {raw : Nat → W64} {w : W64} (legal : LegalMode raw) (one : raw 0 = 1)
    (noUnderlay : raw 4 = 0) (wider : (raw 18).toInt ≤ w.toInt) {env env' : CalcEnv}
    (henv : env = ⟨Config.bwe, dceip, vbios, modeOfSlots raw⟩)
    (henv' : env' = ⟨Config.bwe, dceip, vbios, modeOfSlots (withSrcWidth raw w)⟩) {draws draws' : Nat}
    (clean : (calcCore env (CalcState.start draws)).2.clean) (clean' : (calcCore env' (CalcState.start draws')).2.clean) :
    (calcCore env (CalcState.start draws)).2.results.requiredDramBandwidthGbytePerSecond.toInt
      ≤ (calcCore env' (CalcState.start draws')).2.results.requiredDramBandwidthGbytePerSecond.toInt := by
  subst henv henv'
  have conforms : WidthNeverLowersDemand Config.bwe := Config.implementation.conforms.width
  have grows := conforms dceip vbios raw w draws draws' ((modeLegal_iff _).2 legal) one noUnderlay (decide_eq_true wider)
  dsimp only at grows
  exact (Fx.le_iff _ _).1 (grows clean clean')

/-- Settles O50, from the conformance of the implementation. -/
theorem widthNeverLowersDemand : Obligations.WidthNeverLowersDemand := by
  intro s s' ready ready' bytes slots count noUnderlay wider
  have capabilities : SameCapabilities s.mem s'.mem := .of_bytes bytes
  have raw (k : Nat) (hk : k < 256) : modeSlot s'.mem k = withSrcWidth (modeSlot s.mem) (modeSlot s'.mem 18) k := by
    by_cases width : k = 18
    · rw [width]; rfl
    · exact (congrArg (Option.getD · 0) (slots k hk width)).trans (if_neg width).symm
  have mode : SameMode (modeSlot s'.mem) (withSrcWidth (modeSlot s.mem) (modeSlot s'.mem 18)) :=
    ⟨(raw 0 (by decide)).symm, fun k hk => (raw k (Nat.lt_trans (hk.lt ready'.legal.count) (by decide))).symm⟩
  have env' : envOf s'.mem = ⟨Config.bwe, loadDceip s.mem, loadVbios s.mem, modeOfSlots (withSrcWidth (modeSlot s.mem) (modeSlot s'.mem 18))⟩ := by
    rw [envOf, calcEnv, modeOf, mode.modeOfSlots, capabilities.loadDceip, capabilities.loadVbios]
  have one : modeSlot s.mem 0 = 1 := BitVec.eq_of_toNat_eq count
  have demand := s.calc_slot (envOf s.mem) (k := 22) (by decide)
  have demand' := s'.calc_slot (envOf s'.mem) (k := 22) (by decide)
  rw [Results.slot_requiredDram] at demand demand'
  refine ⟨s.calc (envOf s.mem), s'.calc (envOf s'.mem), _, _, exec_bweCalc_of_ready ready, exec_bweCalc_of_ready ready',
    demand, demand', fun clean clean' => ?_⟩
  have grows := requiredDram_mono (loadDceip s.mem) (loadVbios s.mem) ready.legal one noUnderlay wider (env := envOf s.mem) rfl env'
    (clean_of_bweStatus clean) (clean_of_bweStatus clean')
  exact grows

end Sys2Proof.Machine
end

section
/-!
The constraints on CAP_TABLE (44_bwe_init.md R192): the table as the model forms it, and scenario A, whose records are ready and read
as the conformance of the implementation asks.
-/

namespace Sys2Proof.Machine

/-! ## The tables -/

theorem atLeastOneRaw_pos (w : W64) : 0 < (atLeastOneRaw w).toInt := by
  unfold atLeastOneRaw
  split
  next positive => exact (Fx.gt_iff _ _).1 positive
  next => decide

theorem risingSlot_le_succ (raw : Nat → W64) (base t : Nat) :
    (risingSlot raw base t).toInt ≤ (risingSlot raw base (t + 1)).toInt := by
  rw [risingSlot, Fx.max]
  split
  next => exact le_rfl
  next above => exact le_of_lt (not_le.1 fun h => above ((Fx.le_iff _ _).2 h))

/-- A triple of clocks of a table rises from a positive word. -/
theorem capVbiosSlot_rising (version base : Nat) (h : base = 0 ∨ base = 3 ∨ base = 6) :
    0 < (capVbiosSlot version (base + 0)).toInt
      ∧ (capVbiosSlot version (base + 0)).toInt ≤ (capVbiosSlot version (base + 1)).toInt
      ∧ (capVbiosSlot version (base + 1)).toInt ≤ (capVbiosSlot version (base + 2)).toInt := by
  have slot (j : Nat) (hj : j < 3) : capVbiosSlot version (base + j) = risingSlot (Config.capVbios version) base j := by
    rw [capVbiosSlot, tableVbiosSlot, if_pos (by omega), show (base + j) / 3 * 3 = base by omega, show (base + j) % 3 = j by omega]
  rw [slot 0 (by decide), slot 1 (by decide), slot 2 (by decide)]
  exact ⟨atLeastOneRaw_pos _, risingSlot_le_succ _ _ _, risingSlot_le_succ _ _ _⟩

theorem capDceipSlot_stoney {k : Nat} (h : 8 ≤ k) : capDceipSlot 1 true k = capDceipSlot 1 false k := by
  rw [capDceipSlot, capDceipSlot, tableDceipSlot, tableDceipSlot, if_neg (by omega), if_neg (by omega), if_neg (by omega),
    if_neg (by omega)]

theorem capDceipSlot_predownscaler (version : Nat) (stoney : Bool) :
    capDceipSlot version stoney 16 = 0 ∨ capDceipSlot version stoney 16 = 1 := by
  have bool : capDceipSlot version stoney 16 = wordOfBool (boolOfWord (Config.capDceip version false 16)) := rfl
  rw [bool, wordOfBool]
  split
  · exact .inr rfl
  · exact .inl rfl

/-! ## Scenario A (95_test_vectors.md P5) -/

theorem scenarioAMode_legal : LegalMode scenarioAMode := (modeLegal_iff _).1 (by decide)

theorem neededModeSlot_scenarioA {k : Nat} (h : NeededModeSlot scenarioAMode 1 k) : (1 ≤ k ∧ k < 6) ∨ (16 ≤ k ∧ k < 31) := by
  have underlay : ¬UsesUnderlay scenarioAMode 1 := by simp [UsesUnderlay, scenarioAMode]
  have writeback : ¬UsesWriteback scenarioAMode 1 := by simp [UsesWriteback, scenarioAMode]
  rcases h with h | ⟨d, hd, h⟩ | ⟨h, _⟩ | ⟨h, _⟩
  · omega
  · omega
  · exact absurd h underlay
  · exact absurd h writeback

section

variable {m : Memory}

theorem ScenarioAReady.slot (h : ScenarioAReady m) {k : Nat} (place : k < 6 ∨ (16 ≤ k ∧ k < 31)) :
    m.slot (0x2000 + 8 * k) = some (scenarioAMode k) :=
  place.elim (h.global k) fun ⟨lo, hi⟩ => h.display k lo hi

theorem ScenarioAReady.sameMode (h : ScenarioAReady m) : SameMode scenarioAMode (modeSlot m) := by
  have raw {k : Nat} (place : k < 6 ∨ (16 ≤ k ∧ k < 31)) : modeSlot m k = scenarioAMode k := by
    rw [modeSlot, h.slot place, Option.getD_some]
  refine ⟨raw (.inl (by decide)), fun k hk => raw ?_⟩
  rcases neededModeSlot_scenarioA hk with range | range
  · exact .inl range.2
  · exact .inr range

theorem ScenarioAReady.modeCount (h : ScenarioAReady m) : modeCount m = 1 := congrArg BitVec.toNat h.sameMode.count

theorem ScenarioAReady.calcReady (h : ScenarioAReady m) : CalcReady m := by
  refine ⟨⟨?_, by rw [h.modeCount]; decide, fun k hk => ?_⟩, h.sameMode.legalMode scenarioAMode_legal, fun k hk => ?_, fun k hk => ?_⟩
  · exact Option.isSome_iff_exists.2 ⟨_, h.slot (k := 0) (.inl (by decide))⟩
  · rw [h.modeCount, h.sameMode.neededModeSlot] at hk
    exact Option.isSome_iff_exists.2 ⟨_, h.slot ((neededModeSlot_scenarioA hk).imp_left And.right)⟩
  · exact Option.isSome_iff_exists.2 ⟨_, h.dceip k (by omega)⟩
  · exact Option.isSome_iff_exists.2 ⟨_, h.vbios k (by omega)⟩

theorem ScenarioAReady.envOf (h : ScenarioAReady m) : envOf m = scenarioA Config.implementation.params := by
  have dceip : loadDceip m = dceipOfSlots fun k => some (capDceipSlot 1 false k) := dceipOfSlots_congr fun k hk => h.dceip k hk
  have vbios : loadVbios m = vbiosOfSlots fun k => some (capVbiosSlot 1 k) := vbiosOfSlots_congr fun k hk => h.vbios k hk
  rw [Machine.envOf, calcEnv, modeOf, h.sameMode.modeOfSlots, dceip, vbios]
  rfl

end

theorem bitSet_or_or (w bit x : W32) : bitSet (w ||| bit ||| x) bit = true := by
  rw [bitSet, beq_iff_eq]
  ext k hk
  simp only [BitVec.getElem_and, BitVec.getElem_or]
  cases bit[k] <;> simp

theorem Results.slot_modeCheck (r : Results) : r.slot 0 = r.modeCheck.code := rfl

theorem Results.slot_yClkLevel (r : Results) : r.slot 7 = wordOfNat r.yClkLevel.rank := rfl

theorem State.evaluate_supported (s : State) (env : CalcEnv)
    (h : (Machine.evaluate env (CalcState.start s.draws)).1.supported = true) :
    bitSet (s.evaluate env).bweStatus supportedBit = true := by
  rw [State.evaluate_bweStatus_eq, h, if_pos rfl, BitVec.or_assoc, BitVec.or_assoc]
  exact bitSet_or_or _ _ _

/-- Settles O36: the tables by how they are formed, scenario A by the conformance of the implementation. -/
theorem capabilityTables : Obligations.CapabilityTables := by
  refine ⟨rfl, rfl, rfl, rfl, fun k => capDceipSlot_stoney, capVbiosSlot_rising, capDceipSlot_predownscaler, fun s ready => ?_⟩
  have holds := Config.implementation.conforms.scenarioA s.draws
  rw [← ready.envOf] at holds
  obtain ⟨modeCheck, yClkLevel, supported⟩ := holds
  have calcReady := ready.calcReady
  constructor
  · refine ⟨_, exec_bweCalc_of_ready calcReady, ?_, ?_⟩
    · have slot := s.calc_slot (Machine.envOf s.mem) (k := 0) (by decide)
      rwa [Results.slot_modeCheck, modeCheck] at slot
    · have slot := s.calc_slot (Machine.envOf s.mem) (k := 7) (by decide)
      rwa [Results.slot_yClkLevel, yClkLevel] at slot
  · refine ⟨_, exec_bweBwcalcs_of_ready calcReady (by rw [ready.modeCount]; decide), ?_, s.evaluate_supported _ supported⟩
    have slot := s.evaluate_scalar (Machine.envOf s.mem) (k := 0) (by decide)
    generalize (Machine.evaluate (Machine.envOf s.mem) (CalcState.start s.draws)).1 = output at supported slot
    exact slot.trans (congrArg (fun b => some (wordOfBool b)) supported)

end Sys2Proof.Machine
end
section
/-!
Scenario B in general (45_bwe_calculate.md R213, R218, R228): more displays with a graphics surface than graphics pipes.
-/

namespace Sys2Proof.Machine

theorem filter_lt_range (n : Nat) : (List.range 6).filter (fun k => decide (k < n)) = List.range (min n 6) := by
  rcases Nat.lt_or_ge n 6 with small | large
  · interval_cases n <;> decide
  · rw [Nat.min_eq_right large, List.filter_eq_self]
    intro k hk
    exact decide_eq_true (Nat.lt_of_lt_of_le (List.mem_range.1 hk) large)

theorem length_filter_pipes {p : Slot → Bool} {shown : Nat → Bool} (h : ∀ q : Fin 6, p (graphicsSlot q) = shown q.val) :
    (((List.finRange 6).map graphicsSlot).filter p).length = ((List.range 6).filter shown).length := by
  have composed : p ∘ graphicsSlot = shown ∘ Fin.val := funext h
  rw [List.filter_map, List.length_map, composed, ← List.map_coe_finRange_eq_range, List.filter_map, List.length_map]

/-- The enabled graphics slots are the displays that show a graphics surface (R204). -/
theorem numberOfEnabledGraphics_eq (env : CalcEnv) (draws : Nat) : (resultsOf env draws).numberOfEnabledGraphics
    = ((List.range (min env.mode.n 6)).filter fun k => decide (env.mode.underlayMode k ≠ .underlayOnly)).length := by
  obtain ⟨count, -⟩ := pipeAndModeChecks env draws
  obtain ⟨graphics, -⟩ := surfaceClassification env draws
  beta_reduce at count graphics
  generalize resultsOf env draws = r at count graphics ⊢
  have enabled (q : Fin 6) : r.surfaces[graphicsSlot q].cls.enable
      = (decide (env.mode.underlayMode q.val ≠ .underlayOnly) && decide (q.val < env.mode.n)) := by
    rw [graphics q]
    split
    next shown => simp [shown]
    next hidden => rw [← Bool.decide_and, eq_comm, decide_eq_false_iff_not, and_comm]; exact hidden
  have slots : ([4, 5, 6, 7, 8, 9] : List Slot) = (List.finRange 6).map graphicsSlot := by decide
  rw [count, slots, length_filter_pipes
    (shown := fun k => decide (env.mode.underlayMode k ≠ .underlayOnly) && decide (k < env.mode.n)) enabled, ← List.filter_filter, filter_lt_range]

/-- Settles O55: the pipe check fails, so the mode check fails, so the voltage is v_notok, which forces the sentinels. -/
theorem tooManyDisplaysFail : Obligations.TooManyDisplaysFail := by
  intro env draws many displays r
  obtain ⟨-, -, -, pipe, mode⟩ := pipeAndModeChecks env draws
  obtain ⟨-, notok, sentinels, -⟩ := infeasibleForcesSentinel env draws
  have tooMany : ¬((resultsOf env draws).numberOfEnabledGraphics : Int) ≤ env.dceip.numberOfGraphicsPipes.toInt := by
    rw [numberOfEnabledGraphics_eq]
    exact not_le.2 many
  have pipeFails : (resultsOf env draws).pipeCheck = .notok := by rw [pipe, if_neg fun h => tooMany h.1]
  have modeFails : (resultsOf env draws).modeCheck = .notok := by
    rw [mode, pipeFails, if_neg fun h => absurd h.1 (by decide)]
  have voltage : (resultsOf env draws).voltage = .notok :=
    notok.2 ⟨Nat.ne_of_gt displays, .inl (by rw [modeFails]; decide)⟩
  obtain ⟨dispclk, requiredSclk⟩ := sentinels voltage
  exact ⟨pipeFails, modeFails, voltage, dispclk, requiredSclk⟩

end Sys2Proof.Machine
end

section
/-!
Stage 10 in the finished RESULTS (45_bwe_calculate.md R227): the dispclk requirement as a maximum, dispclk and its voltage tier.
-/

namespace Sys2Proof.Machine

/-! ## The maximum of words as signed integers -/

theorem Fx.max_eq (a b : W64) : Fx.max a b = if b.toInt ≤ a.toInt then a else b := by simp only [Fx.max, Fx.le_iff]

theorem foldl_max_mem (ws : List W64) (a : W64) : ws.foldl Fx.max a ∈ a :: ws := by
  induction ws generalizing a with
  | nil => exact List.mem_cons_self
  | cons b ws ih =>
    have tail := ih (Fx.max a b)
    rw [List.foldl_cons]
    rw [List.mem_cons] at tail ⊢
    rcases tail with eq | mem
    · rw [eq, Fx.max_eq]
      split
      · exact .inl rfl
      · exact .inr List.mem_cons_self
    · exact .inr (List.mem_cons_of_mem b mem)

theorem le_foldl_max (ws : List W64) (a : W64) : ∀ x ∈ a :: ws, x.toInt ≤ (ws.foldl Fx.max a).toInt := by
  induction ws generalizing a with
  | nil =>
    intro x hx
    rw [List.mem_singleton.1 hx]
    exact le_rfl
  | cons b ws ih =>
    intro x hx
    have greatest := ih (Fx.max a b)
    have larger : a.toInt ≤ (Fx.max a b).toInt ∧ b.toInt ≤ (Fx.max a b).toInt := by
      rw [Fx.max_eq]
      split <;> omega
    have head := greatest _ List.mem_cons_self
    rw [List.foldl_cons]
    rcases List.mem_cons.1 hx with rfl | hx
    · exact larger.1.trans head
    · rcases List.mem_cons.1 hx with rfl | hx
      · exact larger.2.trans head
      · exact greatest x (List.mem_cons_of_mem _ hx)

/-! ## dispclk and its tier -/

/-- A tier fits where the ramped or the unramped value does not exceed its maximum. -/
theorem dispclkAtTier_eq (most w ramped : W64) :
    dispclkAtTier most w ramped
      = if ramped.toInt ≤ most.toInt ∨ w.toInt ≤ most.toInt
        then some (if ramped.toInt ≤ most.toInt then ramped else most) else none := by
  simp only [dispclkAtTier, Fx.le_iff]
  by_cases fits : ramped.toInt ≤ most.toInt
  · simp only [fits, true_or, if_true]
  · simp only [fits, false_or, if_false]

theorem chooseDispclk_of_above {v : Vbios} {w : W64} (ramped : W64) (h : v.maxDispclk.high.toInt < w.toInt) :
    chooseDispclk v w ramped = (sentinelWord, 3) := by rw [chooseDispclk, if_pos ((Fx.gt_iff _ _).2 h)]

/-- At or below the high maximum the first tier that fits is chosen, and one does. -/
theorem chooseDispclk_of_le {v : Vbios} {w : W64} (ramped : W64) (h : w.toInt ≤ v.maxDispclk.high.toInt) :
    let fits := fun t : Tier => ramped.toInt ≤ (v.maxDispclk.get t).toInt ∨ w.toInt ≤ (v.maxDispclk.get t).toInt
    ∃ t : Tier, fits t ∧ (∀ t' : Tier, fits t' → t.rank ≤ t'.rank)
      ∧ chooseDispclk v w ramped
        = (if ramped.toInt ≤ (v.maxDispclk.get t).toInt then ramped else v.maxDispclk.get t, t.rank) := by
  intro fits
  have not_above : ¬Fx.gt w v.maxDispclk.high = true := by rw [Fx.gt_iff]; omega
  have high : fits .high := .inr h
  have atTier : ∀ t, dispclkAtTier (v.maxDispclk.get t) w ramped
      = if fits t then some (if ramped.toInt ≤ (v.maxDispclk.get t).toInt then ramped else v.maxDispclk.get t) else none :=
    fun t => dispclkAtTier_eq _ _ _
  have low? := atTier .low
  have mid? := atTier .mid
  have high? := atTier .high
  simp only [PerTier.get] at low? mid? high?
  rw [chooseDispclk, if_neg not_above, low?, mid?, high?]
  by_cases low : fits .low
  · refine ⟨.low, low, fun _ _ => Nat.zero_le _, ?_⟩
    rw [if_pos low]
    rfl
  by_cases mid : fits .mid
  · refine ⟨.mid, mid, fun t' fits' => ?_, ?_⟩
    · cases t' with
      | low => exact absurd fits' low
      | mid => exact le_rfl
      | high => decide
    · rw [if_neg low, if_pos mid]
      rfl
  · refine ⟨.high, high, fun t' fits' => ?_, ?_⟩
    · cases t' with
      | low => exact absurd fits' low
      | mid => exact absurd fits' mid
      | high => exact le_rfl
    · rw [if_neg low, if_neg mid, if_pos high]
      rfl

/-! ## Stage 10 -/

theorem Finds.fxOp_mul {r : Results} (a b : W64) : Finds r (fxOp (Fx.mul a b)) fun w => some w = (Fx.mul a b).word? :=
  fun c e hc => ⟨(Machine.fxOp_mul a b c).symm, e, by rw [fxOp_results, hc]⟩

theorem dispclkRequirements_foldl (r : Results) :
    r.enabledCapabilities.foldl (fun w X => Fx.max w (r.cell X r.yClkLevel r.sclkLevel).dispclkRequired)
        (Fx.max (Fx.max r.dispclkReqPixelThroughput r.dispclkReqScalerThroughput) r.dispclkReqReadRequestThroughput)
      = (dispclkRequirements r).tail.foldl Fx.max r.dispclkReqPixelThroughput := by
  simp only [dispclkRequirements, List.cons_append, List.nil_append, List.tail_cons, List.foldl_cons, List.foldl_map]
  rfl

/-- What stage 10 leaves in RESULTS beside dispclk, R227, for what its formulas read. -/
structure DispclkRequired (env : CalcEnv) (reads : Config.DispclkReads) (r : Results) : Prop where
  pixel : Answers env (fun x => env.params.stage.dispclkPixelThroughput x reads) r.dispclkReqPixelThroughput
  scaler : Answers env (fun x => env.params.stage.dispclkScalerThroughput x reads) r.dispclkReqScalerThroughput
  request : Answers env (fun x => env.params.stage.dispclkReadRequestThroughput x reads) r.dispclkReqReadRequestThroughput
  greatest : r.dispclkRequiredWithoutRamping = (dispclkRequirements r).tail.foldl Fx.max r.dispclkReqPixelThroughput
  ramped : some r.dispclkRequiredWithRamping
    = (Fx.mul r.dispclkRequiredWithoutRamping env.dceip.dispclkRampingFactor).word?
  tier : r.dispclkVoltageTier
    = (chooseDispclk env.vbios r.dispclkRequiredWithoutRamping r.dispclkRequiredWithRamping).2

theorem DispclkRequired.upTo_iff {env : CalcEnv} {reads : Config.DispclkReads} {r : Results} :
    DispclkRequired env reads (r.upTo 10) ↔ DispclkRequired env reads r := ⟨fun h => { h with }, fun h => { h with }⟩

theorem stage10_ensures (env : CalcEnv) (r : Results) :
    Ensures r (stage10 env) fun _ r' => DispclkRequired env (dispclkReads env r) r'
      ∧ r'.dispclk = (chooseDispclk env.vbios r'.dispclkRequiredWithoutRamping r'.dispclkRequiredWithRamping).1 := by
  unfold stage10
  refine Ensures.bind Finds.getResults ?_
  rintro _ ⟨e, rfl⟩
  refine Ensures.bind (Finds.callStage _ _) fun pixel answersPixel => Ensures.bind (Finds.callStage _ _)
    fun scaler answersScaler => Ensures.bind (Finds.callStage _ _) fun request answersRequest =>
    Ensures.bind (Finds.fxOp_mul _ _) fun ramped multiplied => Ensures.changeResults fun e' =>
    ⟨⟨answersPixel, answersScaler, answersRequest, ?greatest, multiplied, rfl⟩, rfl⟩
  case greatest =>
    rw [← dispclkRequirements_foldl]
    rfl

theorem dispclkReads_congr (env : CalcEnv) {r r' : Results}
    (core : ∀ i, (slotView i r).toSurfaceCore = (slotView i r').toSurfaceCore) : dispclkReads env r = dispclkReads env r' := by
  have cls : ∀ i, (slotView i r).cls = (slotView i r').cls := fun i => congrArg SurfaceCore.cls (core i)
  rw [dispclkReads, dispclkReads, enabledViews_congr cls core]

theorem resultsOf_core_afterStage9 (env : CalcEnv) (draws : Nat) (i : Slot) :
    (slotView i (resultsOf env draws)).toSurfaceCore = (slotView i (afterStage9 env draws).2.results).toSurfaceCore :=
  Surface.core_eq_of_upTo (slotView_upTo_eq (resultsOf_upTo9 env draws (k := 6) (by omega)) i) le_rfl

theorem resultsOf_dispclkRequired (env : CalcEnv) (draws : Nat) :
    DispclkRequired env (dispclkReads env (resultsOf env draws)) (resultsOf env draws) := by
  rw [dispclkReads_congr env (resultsOf_core_afterStage9 env draws), ← DispclkRequired.upTo_iff,
    resultsOf_upTo10 env draws (by omega), DispclkRequired.upTo_iff, afterStage10]
  exact ((stage10_ensures env _).run (afterStage9 env draws).2).1

/-! ## dispclk where the voltage is not v_notok -/

theorem setVoltage_dispclk {n : Nat} {noFit : NoFit} {r : Results} (h : (setVoltage n noFit r).voltage ≠ .notok) :
    (setVoltage n noFit r).dispclk = r.dispclk := by
  rw [setVoltage_voltage] at h
  rw [setVoltage]
  simp only [h, false_and, if_false]

theorem resultsOf_dispclk {env : CalcEnv} {draws : Nat} (h : (resultsOf env draws).voltage ≠ .notok) :
    (resultsOf env draws).dispclk
      = (chooseDispclk env.vbios (resultsOf env draws).dispclkRequiredWithoutRamping
        (resultsOf env draws).dispclkRequiredWithRamping).1 := by
  have voltage : ∀ r : Results, (r.upTo 11).voltage = r.voltage := fun _ => rfl
  have dispclk : ∀ r : Results, (r.upTo 11).dispclk = r.dispclk := fun _ => rfl
  have unramped : ∀ r : Results, (r.upTo 10).dispclkRequiredWithoutRamping = r.dispclkRequiredWithoutRamping := fun _ => rfl
  have ramped : ∀ r : Results, (r.upTo 10).dispclkRequiredWithRamping = r.dispclkRequiredWithRamping := fun _ => rfl
  have after11 := resultsOf_upTo11 env draws (k := 11) (by omega)
  have after10 := resultsOf_upTo10 env draws (k := 10) (by omega)
  rw [← voltage, after11, voltage, afterStage11_results] at h
  rw [← dispclk, after11, dispclk, afterStage11_results, setVoltage_dispclk h, ← unramped, ← ramped, after10, unramped,
    ramped, afterStage10]
  exact ((stage10_ensures env _).run (afterStage9 env draws).2).2

end Sys2Proof.Machine

namespace Sys2Proof

open Machine

/-- Settles O53: stage 10's choice on the requirement that the finished RESULTS shows; stage 11 leaves dispclk but for a v_notok. -/
theorem dispclkTier : Obligations.DispclkTier := by
  intro env draws r v f w ramped fits
  have required := resultsOf_dispclkRequired env draws
  have chosen := resultsOf_dispclk (env := env) (draws := draws)
  rw [show resultsOf env draws = r from rfl] at required chosen
  clear_value r
  have list : dispclkRequirements r = r.dispclkReqPixelThroughput :: (dispclkRequirements r).tail := rfl
  refine ⟨required.pixel, required.scaler, required.request, ?mem, ?greatest, required.ramped, fun above => ?above,
    fun le => ?le⟩
  case mem =>
    rw [list, show w = _ from required.greatest]
    exact foldl_max_mem _ _
  case greatest =>
    rw [list, show w = _ from required.greatest]
    exact le_foldl_max _ _
  case above =>
    have choice := chooseDispclk_of_above ramped above
    refine ⟨required.tier.trans (congrArg Prod.snd choice), fun ok => ?_⟩
    rw [chosen ok, ← sentinelWord_eq]
    exact congrArg Prod.fst choice
  case le =>
    obtain ⟨t, fits_t, least, choice⟩ := chooseDispclk_of_le ramped le
    exact ⟨t, fits_t, least, required.tier.trans (congrArg Prod.snd choice),
      fun ok => (chosen ok).trans (congrArg Prod.fst choice)⟩

end Sys2Proof
end

section
/-!
Stages 12 and 13 in the finished RESULTS (45_bwe_calculate.md R229, R230): the watermarks of a slot and the seven metrics.
-/

namespace Sys2Proof.Machine

/-! ## The watermarks of one slot -/

theorem Finds.getSurface {r : Results} (i : Slot) : Finds r (getSurface i) (· = slotView i r) := fun c e hc =>
  ⟨by rw [getSurface_eq_slotView, hc]; rfl, e, hc⟩

theorem Finds.ite {α : Type} {r : Results} {p : Prop} [Decidable p] {m m' : CalcM α} {P : α → Prop}
    (yes : p → Finds r m P) (no : ¬p → Finds r m' P) : Finds r (if p then m else m') P := by
  split
  case isTrue h => exact yes h
  case isFalse h => exact no h

theorem Ensures.changeSurface {r : Results} {i : Slot} {f : Surface → Surface} {Q : Unit → Results → Prop}
    (h : ∀ e, Q () { r with surfaces := r.surfaces.set i (f (slotView i r)), ext := e }) :
    Ensures r (changeSurface i f) Q := Ensures.changeResults h

/-- The stutter-exit watermark of a slot, from the value before the cursor limit: with more than one display the limit caps it. -/
def ExitCapped (env : CalcEnv) (i : Slot) (reads : Config.WatermarkReads) (uncapped w : W64) : Prop :=
  if env.mode.n > 1 then ∃ limit, Answers env (fun x => env.params.stage.cursorBufferLimit x i reads) limit
    ∧ w = Fx.min uncapped limit
  else w = uncapped

/-- What stage 12 leaves in an enabled slot, R229, with the levels and what burst_time reads in `r`. -/
structure Watermarked (env : CalcEnv) (i : Slot) (r : Results) (s : Surface) : Prop where
  line : Answers env (fun x => env.params.stage.lineSourceTransferTime x i (watermarkReads env r s))
    s.wm.lineSourceTransferTime
  urgent : ∃ latency burst overhead,
    Answers env (fun x => env.params.stage.totalUrgentLatency x
        { urgentLatency := env.vbios.urgentLatency, yTier := r.yClkLevel, sTier := r.sclkLevel }) latency
      ∧ Answers env (fun x => env.params.stage.burstTime x r.yClkLevel r.sclkLevel
          (gridReads env r r.yClkLevel r.sclkLevel)) burst
      ∧ Answers env (fun x => env.params.stage.requestTimeOverhead x i (watermarkReads env r s)) overhead
      ∧ s.wm.urgent = latency + burst + s.wm.lineSourceTransferTime + overhead
  nbp : s.wm.nbpStateChange = s.wm.urgent + env.vbios.nbpStateChangeLatency
  stutter : ExitCapped env i (watermarkReads env r s)
    (s.wm.urgent + env.vbios.selfRefreshExitLatency - env.vbios.blackoutDuration) s.wm.stutterExit

theorem slotView_set_ext (i : Slot) (r : Results) (s : Surface) (e : List (Nat × W64)) :
    slotView i { r with surfaces := r.surfaces.set i s, ext := e } = s := slotView_set_self i r s

theorem setWatermarks_ensures (env : CalcEnv) (i : Slot) (r : Results) :
    Ensures r (setWatermarks env i) fun _ r' => Watermarked env i r (slotView i r') := by
  unfold setWatermarks
  refine Ensures.bind Finds.getResults ?_
  rintro _ ⟨e, rfl⟩
  refine Ensures.bind (Finds.getSurface i) ?_
  rintro _ rfl
  refine Ensures.bind (Finds.callStage _ _) fun line answersLine => Ensures.bind (Finds.callStage _ _)
    fun latency answersLatency => Ensures.bind (burstTime_finds env r _ _) fun burst answersBurst =>
    Ensures.bind (Finds.fxOp_add _ _) ?_
  rintro _ rfl
  refine Ensures.bind (Finds.fxOp_add _ _) ?_
  rintro _ rfl
  refine Ensures.bind (Finds.callStage _ _) fun overhead answersOverhead => Ensures.bind (Finds.fxOp_add _ _) ?_
  rintro _ rfl
  refine Ensures.bind (Finds.fxOp_add _ _) ?_
  rintro _ rfl
  refine Ensures.bind (Finds.fxOp_sub _ _) ?_
  rintro _ rfl
  dsimp only
  have last : ∀ stutter, ExitCapped env i (watermarkReads env r (slotView i r))
      (latency + burst + line + overhead + env.vbios.selfRefreshExitLatency - env.vbios.blackoutDuration) stutter →
      Ensures r (fxOp (Fx.add (latency + burst + line + overhead) env.vbios.nbpStateChangeLatency) >>= fun nbp =>
        changeSurface i fun s =>
          { s with wm := { lineSourceTransferTime := line, urgent := latency + burst + line + overhead
                           stutterExit := stutter, nbpStateChange := nbp } })
        fun _ r' => Watermarked env i r (slotView i r') := by
    intro stutter capped
    refine Ensures.bind (Finds.fxOp_add _ _) ?_
    rintro _ rfl
    refine Ensures.changeSurface fun e' => ?_
    rw [slotView_set_ext]
    exact ⟨answersLine, ⟨latency, burst, overhead, answersLatency, answersBurst, answersOverhead, rfl⟩, rfl, capped⟩
  unfold ExitCapped at last
  by_cases several : env.mode.n > 1
  · simp only [if_pos several] at last ⊢
    refine Ensures.bind (Finds.callStage _ _) fun limit answersLimit => Ensures.bind (Finds.pure rfl) ?_
    rintro _ rfl
    exact last _ ⟨limit, answersLimit, rfl⟩
  · simp only [if_neg several] at last ⊢
    refine Ensures.bind (Finds.pure rfl) ?_
    rintro _ rfl
    exact last _ rfl

/-- The loop of stage 12 leaves what the earlier stages have written, so that every slot reads the levels and the surfaces before it. -/
theorem stage12_watermarked (env : CalcEnv) (c : CalcState) (i : Slot) (enabled : (slotView i c.results).cls.enable = true) :
    ∃ r : Results, r.upTo 11 = c.results.upTo 11 ∧ Watermarked env i r (slotView i (stage12 env c).2.results) := by
  have own : ∀ i j : Slot, j ≠ i → Keeps (slotView j) (setWatermarks env i) := fun i j hj => by
    unfold setWatermarks burstTime
    repeat' with_reducible first
      | exact Keeps.pure _
      | exact Keeps.getSurface _
      | exact Keeps.getResults
      | exact Keeps.fxOp _
      | exact Keeps.callStage _ _ (slotView_ignoresExt j)
      | exact Keeps.changeSurface fun r => slotView_set_other j i r _ hj
      | apply Keeps.bind
      | apply Keeps.ite
      | intro _
  have ignores : IgnoresSurface (Results.upTo 11) fun a b => b = { a with wm := b.wm } :=
    Results.upTo_ignoresSurface fun a b e => by
      rw [e]; simp only [Surface.upTo, onceStage_of_lt (by omega : 11 < 12) b.wm a.wm]
  have keeps : ∀ i, Keeps (Results.upTo 11) (setWatermarks env i) := fun i => by
    unfold setWatermarks burstTime
    repeat' with_reducible first
      | exact Keeps.pure _
      | exact Keeps.getSurface _
      | exact Keeps.getResults
      | exact Keeps.fxOp _
      | exact Keeps.callStage _ _ (Results.upTo_ignoresExt 11)
      | exact Keeps.changeSurface_of ignores _ _ (fun _ => rfl)
      | apply Keeps.bind
      | apply Keeps.ite
      | intro _
  obtain ⟨c', -, same, after⟩ := forEnabled_slot (Results.upTo 11) (setWatermarks env) own keeps i c
  refine ⟨c'.results, same, ?_⟩
  rw [stage12, after, if_pos enabled]
  exact (setWatermarks_ensures env i c'.results).run c'

/-- Of RESULTS the formulas of stage 12 read the levels and the surfaces alone. -/
theorem Watermarked.congr {env : CalcEnv} {i : Slot} {r r' : Results} {s : Surface} (same : r.upTo 11 = r'.upTo 11)
    (h : Watermarked env i r s) : Watermarked env i r' s := by
  have yLevel : r.yClkLevel = r'.yClkLevel := by
    have view : ∀ r : Results, (r.upTo 11).yClkLevel = r.yClkLevel := fun _ => rfl
    rw [← view r, same, view]
  have sLevel : r.sclkLevel = r'.sclkLevel := by
    have view : ∀ r : Results, (r.upTo 11).sclkLevel = r.sclkLevel := fun _ => rfl
    rw [← view r, same, view]
  have grid : gridReads env r = gridReads env r' :=
    gridReads_congr env fun i => Surface.core_eq_of_upTo (slotView_upTo_eq same i) (by omega)
  have reads : watermarkReads env r s = watermarkReads env r' s := by rw [watermarkReads, watermarkReads, yLevel, sLevel]
  obtain ⟨line, urgent, nbp, stutter⟩ := h
  rw [reads] at line stutter
  rw [reads, yLevel, sLevel, grid] at urgent
  exact ⟨line, urgent, nbp, stutter⟩

theorem resultsOf_watermarked (env : CalcEnv) (draws : Nat) (i : Slot)
    (enabled : (slotView i (resultsOf env draws)).cls.enable = true) :
    Watermarked env i (resultsOf env draws) (slotView i (resultsOf env draws)) := by
  have upTo := resultsOf_upTo11 env draws (k := 11) (by omega)
  have last : slotView i (resultsOf env draws) = slotView i (stage12 env (afterStage11 env draws)).2.results := by
    rw [resultsOf_eq_stage13]
    exact stage13_keeps env (slotView_ignoresExt i) (fun _ _ _ _ _ _ _ _ => rfl) _
  rw [Surface.cls_eq_of_upTo (slotView_upTo_eq upTo i) (by omega)] at enabled
  obtain ⟨r, same, marked⟩ := stage12_watermarked env (afterStage11 env draws) i enabled
  rw [last]
  exact marked.congr (same.trans upTo.symm)

/-! ## The metrics -/

/-- A metric stores what its formula answers for the RESULTS it finds. -/
theorem metric_answers (env : CalcEnv) (f : Config.Ext → Config.MetricReads → Config.StageProgram)
    (set : W64 → Results → Results) (c : CalcState) :
    ∃ v e, (metric env f set c).2.results = set v { c.results with ext := e }
      ∧ Answers env (fun x => f x { results := c.results, vbios := env.vbios }) v := by
  obtain ⟨v, e, stored, called⟩ := metric_results env f set c
  exact ⟨v, e, stored, c, called⟩

/-- The seven metrics of RESULTS. -/
def metricsView (r : Results) : W64 × W64 × W64 × W64 × W64 × W64 × W64 :=
  (r.dramAccessEfficiency, r.writeAccessEfficiency, r.averageBandwidthNoCompression, r.averageBandwidth,
    r.stutterEfficiency, r.immediateFlipLatency, r.worstCaseLatencyNonDisplay)

/-- No metric is written before stage 13. -/
theorem metricsView_before (env : CalcEnv) (draws : Nat) :
    metricsView (stage12 env (afterStage11 env draws)).2.results = (0, 0, 0, 0, 0, 0, 0) := by
  have ext : IgnoresExt metricsView := fun _ _ => rfl
  have surface : ∀ change, IgnoresSurface metricsView change := fun _ _ _ _ _ => rfl
  rw [stage12_keeps env ext (surface _), afterStage11, stage11_keeps (g := metricsView) env _ (fun _ _ _ _ => rfl), afterStage10,
    stage10_keeps env ext (fun _ _ _ _ _ _ _ _ => rfl), afterStage9, stage9_keeps (g := metricsView) env _ (fun _ _ _ _ _ => rfl), afterStage8,
    stage8_keeps env ext (fun _ _ _ => rfl), afterStage7, stage7_keeps env ext (fun _ _ _ _ _ _ _ _ _ _ => rfl), afterStage6,
    stage6_keeps env ext (surface _) (fun _ _ => rfl), afterStage5, stage5_keeps env ext (surface _), afterStage4,
    stage4_keeps env ext (surface _), afterStage3,
    stage3_keeps env ext (surface _) (fun _ _ _ _ _ _ _ _ _ _ _ => rfl), afterStage2_eq, stage2_keeps env (surface _),
    afterStage1, stage1_keeps (g := metricsView) env (fun _ _ => rfl)]
  rfl

/-- The word is what the formula answers for the RESULTS that the metric with this number finds. -/
def IsMetric (env : CalcEnv) (r : Results) (number : Nat)
    (formula : Config.Ext → Config.MetricReads → Config.StageProgram) (w : W64) : Prop :=
  ∃ ext, Answers env (fun x => formula x { results := r.beforeMetric number ext, vbios := env.vbios }) w

theorem stage13_metrics (env : CalcEnv) (c : CalcState) (unwritten : metricsView c.results = (0, 0, 0, 0, 0, 0, 0)) :
    let r := (stage13 env c).2.results
    IsMetric env r 0 env.params.stage.dramAccessEfficiency r.dramAccessEfficiency
      ∧ IsMetric env r 1 env.params.stage.writeAccessEfficiency r.writeAccessEfficiency
      ∧ IsMetric env r 2 env.params.stage.averageBandwidthNoCompression r.averageBandwidthNoCompression
      ∧ IsMetric env r 3 env.params.stage.averageBandwidth r.averageBandwidth
      ∧ IsMetric env r 4 env.params.stage.stutterEfficiency r.stutterEfficiency
      ∧ IsMetric env r 5 env.params.stage.immediateFlipLatency r.immediateFlipLatency
      ∧ IsMetric env r 6 env.params.stage.worstCaseLatencyNonDisplay r.worstCaseLatencyNonDisplay := by
  intro r
  have final : r = (stage13 env c).2.results := rfl
  clear_value r
  unfold stage13 at final
  simp only [CalcM.bind_apply] at final
  obtain ⟨v0, e0, stored0, answers0⟩ := metric_answers env env.params.stage.dramAccessEfficiency
    (fun v r => { r with dramAccessEfficiency := v }) c
  generalize (metric env _ _ c).2 = c1 at final stored0
  obtain ⟨v1, e1, stored1, answers1⟩ := metric_answers env env.params.stage.writeAccessEfficiency
    (fun v r => { r with writeAccessEfficiency := v }) c1
  generalize (metric env _ _ c1).2 = c2 at final stored1
  obtain ⟨v2, e2, stored2, answers2⟩ := metric_answers env env.params.stage.averageBandwidthNoCompression
    (fun v r => { r with averageBandwidthNoCompression := v }) c2
  generalize (metric env _ _ c2).2 = c3 at final stored2
  obtain ⟨v3, e3, stored3, answers3⟩ := metric_answers env env.params.stage.averageBandwidth
    (fun v r => { r with averageBandwidth := v }) c3
  generalize (metric env _ _ c3).2 = c4 at final stored3
  obtain ⟨v4, e4, stored4, answers4⟩ := metric_answers env env.params.stage.stutterEfficiency
    (fun v r => { r with stutterEfficiency := v }) c4
  generalize (metric env _ _ c4).2 = c5 at final stored4
  obtain ⟨v5, e5, stored5, answers5⟩ := metric_answers env env.params.stage.immediateFlipLatency
    (fun v r => { r with immediateFlipLatency := v }) c5
  generalize (metric env _ _ c5).2 = c6 at final stored5
  obtain ⟨v6, e6, stored6, answers6⟩ := metric_answers env env.params.stage.worstCaseLatencyNonDisplay
    (fun v r => { r with worstCaseLatencyNonDisplay := v }) c6
  generalize found : c.results = before at unwritten
  cases before
  simp only [metricsView, Prod.mk.injEq] at unwritten
  obtain ⟨rfl, rfl, rfl, rfl, rfl, rfl, rfl⟩ := unwritten
  rw [found] at stored0 answers0
  dsimp only at stored0
  rw [stored0] at stored1 answers1
  dsimp only at stored1
  rw [stored1] at stored2 answers2
  dsimp only at stored2
  rw [stored2] at stored3 answers3
  dsimp only at stored3
  rw [stored3] at stored4 answers4
  dsimp only at stored4
  rw [stored4] at stored5 answers5
  dsimp only at stored5
  rw [stored5] at stored6 answers6
  dsimp only at stored6
  rw [stored6] at final
  subst final
  exact ⟨⟨_, answers0⟩, ⟨e0, answers1⟩, ⟨e1, answers2⟩, ⟨e2, answers3⟩, ⟨e3, answers4⟩, ⟨e4, answers5⟩, ⟨e5, answers6⟩⟩

end Sys2Proof.Machine

namespace Sys2Proof

open Machine

/-- Settles O56: what stage 12 leaves in the slot, its MIN with the cursor limit by signed order, and the seven metrics of stage 13. -/
theorem watermarks : Obligations.Watermarks := by
  intro env draws r v f isMetric
  have marked := resultsOf_watermarked env draws
  have metrics := stage13_metrics env _ (metricsView_before env draws)
  rw [← resultsOf_eq_stage13] at metrics
  simp only [show resultsOf env draws = r from rfl] at marked metrics
  clear_value r
  refine ⟨fun i enabled => ?slot, metrics⟩
  obtain ⟨line, urgent, nbp, stutter⟩ := marked i enabled
  refine ⟨line, urgent, nbp, fun one => ?one, fun several => ?several⟩
  case one =>
    rw [ExitCapped, if_neg (Nat.not_lt.2 one)] at stutter
    exact stutter
  case several =>
    rw [ExitCapped, if_pos several] at stutter
    obtain ⟨limit, answers, capped⟩ := stutter
    refine ⟨limit, answers, capped.trans ?_⟩
    rw [Fx.min, Fx.le]
    exact if_congr (decide_eq_true_iff) rfl rfl

end Sys2Proof
end

section
/-!
Stage 3's checks of the surface slots in the finished RESULTS (45_bwe_calculate.md R214 to R217): a loop that sets a check where its
slot is bad leaves the check failed exactly when some slot is bad.
-/

namespace Sys2Proof.Machine

/-! ## A loop that makes a check -/

/-- The check has the diagnostic where something is bad, and else the value from before. -/
def CheckSays {ι : Type} (bad : ι → Prop) (failure before x : CheckResult) : Prop :=
  ((∃ i, bad i) ∧ x = failure) ∨ ((∀ i, ¬bad i) ∧ x = before)

theorem CheckSays.congr {ι κ : Type} {bad : ι → Prop} {bad' : κ → Prop} {failure before x : CheckResult}
    (same : (∃ i, bad i) ↔ ∃ k, bad' k) (h : CheckSays bad failure before x) : CheckSays bad' failure before x := by
  have none : (∀ i, ¬bad i) ↔ ∀ k, ¬bad' k := by rw [← not_exists, ← not_exists, same]
  rwa [CheckSays, ← same, ← none]

/-- The check of one slot: it has the diagnostic where the slot, as it now is, is bad, and else its value from before. -/
def SlotCheckSays (isBad : Prop) (failure before x : CheckResult) : Prop :=
  (isBad ∧ x = failure) ∨ (¬isBad ∧ x = before)

theorem slotCheckSays_ite {p : Prop} [Decidable p] {isBad : Prop} (same : isBad ↔ p) (failure before : CheckResult) :
    SlotCheckSays isBad failure before (if p then failure else before) := by
  by_cases h : p
  · exact .inl ⟨same.2 h, if_pos h⟩
  · exact .inr ⟨mt same.1 h, if_neg h⟩

section

variable {g : Results → CheckResult} {failure : CheckResult} {bad : Surface → Prop} {body : Slot → CalcM Unit}

theorem forM_keeps_other (own : ∀ i j : Slot, j ≠ i → Keeps (slotView j) (body i)) (l : List Slot) {k : Slot} (hk : k ∉ l) :
    Keeps (slotView k) (l.forM body) := by
  induction l with
  | nil => exact Keeps.pure ()
  | cons i l ih =>
    rw [List.mem_cons, not_or] at hk
    exact Keeps.bind (own i k hk.1) fun _ => ih hk.2

theorem forM_check (own : ∀ i j : Slot, j ≠ i → Keeps (slotView j) (body i))
    (sets : ∀ i c, SlotCheckSays (bad (slotView i (body i c).2.results)) failure (g c.results) (g (body i c).2.results))
    (l : List Slot) (nodup : l.Nodup) (c : CalcState) :
    ((∃ i ∈ l, bad (slotView i (l.forM body c).2.results)) ∧ g (l.forM body c).2.results = failure)
      ∨ ((∀ i ∈ l, ¬bad (slotView i (l.forM body c).2.results)) ∧ g (l.forM body c).2.results = g c.results) := by
  induction l generalizing c with
  | nil => exact .inr ⟨fun i mem => absurd mem List.not_mem_nil, rfl⟩
  | cons k l ih =>
    obtain ⟨fresh, nodup⟩ := List.nodup_cons.1 nodup
    have later : slotView k (l.forM body (body k c).2).2.results = slotView k (body k c).2.results :=
      forM_keeps_other own l fresh (body k c).2
    simp only [forM_cons_apply, List.exists_mem_cons_iff, List.forall_mem_cons, later]
    rcases ih nodup (body k c).2 with ⟨isBad, failed⟩ | ⟨good, kept⟩
    · exact .inl ⟨.inr isBad, failed⟩
    · rw [kept]
      rcases sets k c with ⟨isBad, failed⟩ | ⟨isGood, kept'⟩
      · exact .inl ⟨.inl isBad, failed⟩
      · exact .inr ⟨⟨isGood, good⟩, kept'⟩

/-- The check after a loop over the enabled slots, whose body makes it for its own slot. -/
theorem forEnabled_check {f : Slot → CalcM Unit} (own : ∀ i j : Slot, j ≠ i → Keeps (slotView j) (f i))
    (enabled : ∀ s, bad s → s.cls.enable = true)
    (sets : ∀ i c, (slotView i c.results).cls.enable = true →
      SlotCheckSays (bad (slotView i (f i c).2.results)) failure (g c.results) (g (f i c).2.results))
    (c : CalcState) :
    CheckSays (fun i => bad (slotView i (forEnabled f c).2.results)) failure (g c.results)
      (g (forEnabled f c).2.results) := by
  have ownBody : ∀ i j : Slot, j ≠ i → Keeps (slotView j) (enabledBody f i) := fun i j hj =>
    Keeps.bind (Keeps.getSurface i) fun _ => Keeps.ite (own i j hj) (Keeps.pure ())
  have setsBody : ∀ i c, SlotCheckSays (bad (slotView i (enabledBody f i c).2.results)) failure (g c.results)
      (g (enabledBody f i c).2.results) := by
    intro i c
    rw [enabledBody_apply]
    by_cases on : (slotView i c.results).cls.enable = true
    · rw [if_pos on]
      exact sets i c on
    · rw [if_neg on]
      exact .inr ⟨fun isBad => on (enabled _ isBad), rfl⟩
  have all := forM_check ownBody setsBody allSlots allSlots_nodup c
  rw [forEnabled_eq]
  generalize List.forM allSlots (enabledBody f) = m at all ⊢
  simpa only [CheckSays, mem_allSlots, true_and, true_implies] using all

end

/-! ## The bad slots -/

/-- A slot that R214 and R215 check: enabled and not write-back. -/
def Surface.Checked (s : Surface) : Prop := s.cls.enable = true ∧ s.cls.surfaceType.isWriteback = false

/-- A slot whose ratio along an axis its taps do not support (R214). -/
def Surface.BadHsr (env : CalcEnv) (s : Surface) : Prop :=
  s.Checked ∧ env.params.hsrVsrOk .horizontal s.geo.hsr s.geo.hTaps env.dceip.predownscalerCapable s.cls.surfaceType = false

def Surface.BadVsr (env : CalcEnv) (s : Surface) : Prop :=
  s.Checked ∧ env.params.hsrVsrOk .vertical s.geo.vsr s.geo.vTaps env.dceip.predownscalerCapable s.cls.surfaceType = false

/-- A slot with too few line-buffer partitions for its taps (R215). -/
def Surface.BadLines (s : Surface) : Prop :=
  s.Checked ∧ ∃ needed, (Fx.fromInt (s.geo.vTaps + 1)).word? = some needed ∧ s.lbPartitions.toInt < needed.toInt

/-- A graphics slot with FBC that is rotated, stereo or not of 4 bytes per pixel (R216). -/
def Surface.BadFbc (env : CalcEnv) (s : Surface) : Prop :=
  s.cls.enable = true ∧ (s.cls.surfaceType = .graphics ∧ (env.mode.display s.cls.displayIndex).fbcEnable = true)
    ∧ (s.geo.rotationAngle ≠ 0 ∨ s.geo.stereoMode ≠ .mono ∨ s.cls.bytesPerPixel ≠ 4)

/-- A rotated slot that is linear or stereo (R217). -/
def Surface.BadRotation (s : Surface) : Prop :=
  s.cls.enable = true ∧ s.geo.rotationAngle ≠ 0 ∧ (s.geo.tilingMode = .linear ∨ s.geo.stereoMode ≠ .mono)

/-! ## The four loops -/

theorem checkRatios_results (env : CalcEnv) (i : Slot) (c : CalcState) :
    let s := slotView i c.results
    let bad := fun (axis : Axis) (ratio taps : W64) => s.cls.surfaceType.isWriteback = false
      ∧ env.params.hsrVsrOk axis ratio taps env.dceip.predownscalerCapable s.cls.surfaceType = false
    (checkRatios env i c).2.results
      = { c.results with
          hsrCheck := if bad .horizontal s.geo.hsr s.geo.hTaps then .hsrNotSupportedByTaps else c.results.hsrCheck
          vsrCheck := if bad .vertical s.geo.vsr s.geo.vTaps then .vsrNotSupportedByTaps else c.results.vsrCheck } := by
  intro s bad
  unfold checkRatios
  simp only [CalcM.bind_apply, getSurface_eq_slotView, show slotView i c.results = s from rfl, Bool.not_eq_true', bad]
  clear_value s
  by_cases checked : s.cls.surfaceType.isWriteback = false
  · simp only [checked, if_true, true_and]
    by_cases hsr : env.params.hsrVsrOk .horizontal s.geo.hsr s.geo.hTaps env.dceip.predownscalerCapable s.cls.surfaceType = false
    · by_cases vsr : env.params.hsrVsrOk .vertical s.geo.vsr s.geo.vTaps env.dceip.predownscalerCapable s.cls.surfaceType = false
      · simp only [if_pos hsr, if_pos vsr]
        rfl
      · simp only [if_pos hsr, if_neg vsr]
        rfl
    · by_cases vsr : env.params.hsrVsrOk .vertical s.geo.vsr s.geo.vTaps env.dceip.predownscalerCapable s.cls.surfaceType = false
      · simp only [if_neg hsr, if_pos vsr]
        rfl
      · simp only [if_neg hsr, if_neg vsr]
        rfl
  · rw [Bool.not_eq_false] at checked
    simp only [checked, Bool.true_eq_false, false_and, if_false]
    rfl

theorem checkFbc_results (env : CalcEnv) (i : Slot) (c : CalcState) :
    let s := slotView i c.results
    (checkFbc env i c).2.results
      = { c.results with
          fbcCheck := if (s.cls.surfaceType = .graphics ∧ (env.mode.display s.cls.displayIndex).fbcEnable = true)
              ∧ (s.geo.rotationAngle ≠ 0 ∨ s.geo.stereoMode ≠ .mono ∨ s.cls.bytesPerPixel ≠ 4)
            then .invalidRotationOrBppOrStereo else c.results.fbcCheck } := by
  intro s
  unfold checkFbc
  simp only [CalcM.bind_apply, getSurface_eq_slotView, show slotView i c.results = s from rfl, Bool.and_eq_true, beq_iff_eq,
    Bool.or_eq_true, bne_iff_ne, or_assoc]
  clear_value s
  by_cases checked : s.cls.surfaceType = .graphics ∧ (env.mode.display s.cls.displayIndex).fbcEnable = true
  · by_cases bad : s.geo.rotationAngle ≠ 0 ∨ s.geo.stereoMode ≠ .mono ∨ s.cls.bytesPerPixel ≠ 4
    · rw [if_pos checked, if_pos bad, if_pos ⟨checked, bad⟩]
      rfl
    · rw [if_pos checked, if_neg bad, if_neg fun both => bad both.2]
      rfl
  · rw [if_neg checked, if_neg fun both => checked both.1]
    rfl

theorem checkRotation_results (i : Slot) (c : CalcState) :
    let s := slotView i c.results
    (checkRotation i c).2.results
      = { c.results with
          rotationCheck := if s.geo.rotationAngle ≠ 0 ∧ (s.geo.tilingMode = .linear ∨ s.geo.stereoMode ≠ .mono)
            then .invalidLinearOrStereoMode else c.results.rotationCheck } := by
  intro s
  unfold checkRotation
  simp only [CalcM.bind_apply, getSurface_eq_slotView, show slotView i c.results = s from rfl, beq_iff_eq,
    Bool.or_eq_true, bne_iff_ne]
  clear_value s
  by_cases rotated : s.geo.rotationAngle ≠ 0
  · by_cases bad : s.geo.tilingMode = .linear ∨ s.geo.stereoMode ≠ .mono
    · rw [if_pos rotated, if_pos bad, if_pos ⟨rotated, bad⟩]
      rfl
    · rw [if_pos rotated, if_neg bad, if_neg fun both => bad both.2]
      rfl
  · rw [if_neg rotated, if_neg fun both => rotated both.1]
    rfl

theorem Fx.lt_iff (a b : W64) : Fx.lt a b = true ↔ a.toInt < b.toInt := decide_eq_true_iff

/-- The line-buffer size of a surface type's slot, and the rest of what lb_partitions reads of the slot (R215, R231). -/
def lineBufferReads (env : CalcEnv) (s : Surface) : Config.LbReads :=
  { surfaceType := s.cls.surfaceType, lbSize := lbSizeFor env.dceip s.cls.surfaceType
    widthRoundedUpToChunks := s.geo.widthRoundedUpToChunks, bytesPerPixel := s.cls.bytesPerPixel
    hTaps := s.geo.hTaps, hsr := s.geo.hsr }

theorem Fx.fromInt_word?_isSome (a : W64) : (Fx.fromInt a).word?.isSome = true := by rw [Fx.fromInt, Fx.withOv_word?]; rfl

theorem checkLineBuffer_of_writeback (env : CalcEnv) (i : Slot) (c : CalcState)
    (writeback : (slotView i c.results).cls.surfaceType.isWriteback = true) :
    (checkLineBuffer env i c).2.results = c.results := by
  unfold checkLineBuffer
  simp only [CalcM.bind_apply, getSurface_eq_slotView, writeback]
  rfl

theorem checkLineBuffer_results (env : CalcEnv) (i : Slot) (c : CalcState)
    (checked : (slotView i c.results).cls.surfaceType.isWriteback = false) :
    let s := slotView i c.results
    ∃ partitions needed e, Answers env (fun x => env.params.stage.lbPartitions x i (lineBufferReads env s)) partitions
      ∧ (Fx.fromInt (s.geo.vTaps + 1)).word? = some needed
      ∧ (checkLineBuffer env i c).2.results
        = { c.results with
            surfaces := c.results.surfaces.set i { s with lbPartitions := partitions }
            ext := e
            lbSizeCheck := if partitions.toInt < needed.toInt then .notok else c.results.lbSizeCheck } := by
  intro s
  obtain ⟨e, stored⟩ := callStage_results env (fun x => env.params.stage.lbPartitions x i (lineBufferReads env s)) c
  have answers := callStage_answers env (fun x => env.params.stage.lbPartitions x i (lineBufferReads env s)) c
  have slot : slotView i c.results = s := rfl
  unfold checkLineBuffer
  simp only [CalcM.bind_apply, getSurface_eq_slotView, slot, show s.cls.surfaceType.isWriteback = false from checked,
    Bool.not_false, if_true]
  unfold lineBufferReads at stored answers
  generalize callStage env _ c = called at stored answers ⊢
  have slots : (changeSurface i (fun s => { s with lbPartitions := called.1 }) called.2).2.results
      = { c.results with surfaces := c.results.surfaces.set i { s with lbPartitions := called.1 }, ext := e } := by
    rw [changeSurface_apply, stored]
    rfl
  generalize (changeSurface i _ called.2).2 = changed at slots ⊢
  have value := fxOp_of_isSome (Fx.fromInt_word?_isSome (s.geo.vTaps + 1)) changed
  have kept := fxOp_results (Fx.fromInt (s.geo.vTaps + 1)) changed
  refine ⟨called.1, _, e, answers, value, ?_⟩
  generalize fxOp _ changed = converted at kept ⊢
  by_cases few : called.1.toInt < converted.1.toInt
  · rw [if_pos ((Fx.lt_iff _ _).2 few), if_pos few, changeResults_apply, kept, slots]
  · rw [if_neg (mt (Fx.lt_iff _ _).1 few), if_neg few, CalcM.pure_apply, kept, slots]

/-! What each loop leaves. -/

section

variable {β : Type} {g : Results → β}

theorem checkRatios_keeps (env : CalcEnv) (i : Slot) (h : ∀ r a b, g { r with hsrCheck := a, vsrCheck := b } = g r) :
    Keeps g (checkRatios env i) := fun c => by rw [checkRatios_results, h]

theorem checkFbc_keeps (env : CalcEnv) (i : Slot) (h : ∀ r a, g { r with fbcCheck := a } = g r) :
    Keeps g (checkFbc env i) := fun c => by rw [checkFbc_results, h]

theorem checkRotation_keeps (i : Slot) (h : ∀ r a, g { r with rotationCheck := a } = g r) :
    Keeps g (checkRotation i) := fun c => by rw [checkRotation_results, h]

theorem checkLineBuffer_keeps (env : CalcEnv) (i : Slot) (hx : IgnoresExt g) (hc : ∀ r a, g { r with lbSizeCheck := a } = g r)
    (hs : ∀ (r : Results) (w : W64), g { r with surfaces := r.surfaces.set i { slotView i r with lbPartitions := w } } = g r) :
    Keeps g (checkLineBuffer env i) := fun c => by
  cases checked : (slotView i c.results).cls.surfaceType.isWriteback with
  | true => rw [checkLineBuffer_of_writeback env i c checked]
  | false =>
    obtain ⟨w, _, e, -, -, results⟩ := checkLineBuffer_results env i c checked
    rw [results]
    exact ((hc _ _).trans (hx _ e)).trans (hs c.results w)

end

theorem checkRatios_hsr (env : CalcEnv) (c : CalcState) :
    let r := (forEnabled (checkRatios env) c).2.results
    CheckSays (fun i => (slotView i r).BadHsr env) .hsrNotSupportedByTaps c.results.hsrCheck r.hsrCheck := by
  refine forEnabled_check (g := Results.hsrCheck) (fun i j _ => checkRatios_keeps env i fun _ _ _ => rfl)
    (fun s bad => bad.1.1) (fun i c enabled => ?_) c
  have slot : slotView i (checkRatios env i c).2.results = slotView i c.results :=
    checkRatios_keeps env i (fun _ _ _ => rfl) c
  rw [slot, checkRatios_results]
  exact slotCheckSays_ite (by rw [Surface.BadHsr, Surface.Checked, and_iff_right enabled]) _ _

theorem checkRatios_vsr (env : CalcEnv) (c : CalcState) :
    let r := (forEnabled (checkRatios env) c).2.results
    CheckSays (fun i => (slotView i r).BadVsr env) .vsrNotSupportedByTaps c.results.vsrCheck r.vsrCheck := by
  refine forEnabled_check (g := Results.vsrCheck) (fun i j _ => checkRatios_keeps env i fun _ _ _ => rfl)
    (fun s bad => bad.1.1) (fun i c enabled => ?_) c
  have slot : slotView i (checkRatios env i c).2.results = slotView i c.results :=
    checkRatios_keeps env i (fun _ _ _ => rfl) c
  rw [slot, checkRatios_results]
  exact slotCheckSays_ite (by rw [Surface.BadVsr, Surface.Checked, and_iff_right enabled]) _ _

theorem checkFbc_fbc (env : CalcEnv) (c : CalcState) :
    let r := (forEnabled (checkFbc env) c).2.results
    CheckSays (fun i => (slotView i r).BadFbc env) .invalidRotationOrBppOrStereo c.results.fbcCheck r.fbcCheck := by
  refine forEnabled_check (g := Results.fbcCheck) (fun i j _ => checkFbc_keeps env i fun _ _ => rfl)
    (fun s bad => bad.1) (fun i c enabled => ?_) c
  have slot : slotView i (checkFbc env i c).2.results = slotView i c.results := checkFbc_keeps env i (fun _ _ => rfl) c
  rw [slot, checkFbc_results]
  exact slotCheckSays_ite (by rw [Surface.BadFbc, and_iff_right enabled]) _ _

theorem checkRotation_rotation (c : CalcState) :
    let r := (forEnabled checkRotation c).2.results
    CheckSays (fun i => (slotView i r).BadRotation) .invalidLinearOrStereoMode c.results.rotationCheck r.rotationCheck := by
  refine forEnabled_check (g := Results.rotationCheck) (fun i j _ => checkRotation_keeps i fun _ _ => rfl)
    (fun s bad => bad.1) (fun i c enabled => ?_) c
  have slot : slotView i (checkRotation i c).2.results = slotView i c.results := checkRotation_keeps i (fun _ _ => rfl) c
  rw [slot, checkRotation_results]
  exact slotCheckSays_ite (by rw [Surface.BadRotation, and_iff_right enabled]) _ _

/-- The line-buffer loop changes only its own slot, and of it the partitions alone. -/
theorem checkLineBuffer_own (env : CalcEnv) (i j : Slot) (h : j ≠ i) : Keeps (slotView j) (checkLineBuffer env i) :=
  checkLineBuffer_keeps env i (slotView_ignoresExt j) (fun _ _ => rfl) fun r _ => slotView_set_other j i r _ h

theorem checkLineBuffer_lines (env : CalcEnv) (c : CalcState) :
    let r := (forEnabled (checkLineBuffer env) c).2.results
    CheckSays (fun i => (slotView i r).BadLines) .notok c.results.lbSizeCheck r.lbSizeCheck := by
  refine forEnabled_check (g := Results.lbSizeCheck) (checkLineBuffer_own env) (fun s bad => bad.1.1)
    (fun i c enabled => ?_) c
  cases checked : (slotView i c.results).cls.surfaceType.isWriteback with
  | true =>
    rw [checkLineBuffer_of_writeback env i c checked]
    refine .inr ⟨fun bad => ?_, rfl⟩
    rw [bad.1.2] at checked
    cases checked
  | false =>
    obtain ⟨w, needed, e, -, value, results⟩ := checkLineBuffer_results env i c checked
    have slot : slotView i (checkLineBuffer env i c).2.results = { slotView i c.results with lbPartitions := w } := by
      rw [results]
      exact slotView_set_self i c.results _
    rw [slot, results]
    refine slotCheckSays_ite ?_ _ _
    rw [Surface.BadLines, Surface.Checked]
    dsimp only
    rw [and_iff_right ⟨enabled, checked⟩, value]
    exact ⟨fun ⟨_, same, few⟩ => (Option.some.inj same).symm ▸ few, fun few => ⟨_, rfl, few⟩⟩

theorem checkLineBuffer_partitions (env : CalcEnv) (c : CalcState) (i : Slot) (checked : (slotView i c.results).Checked) :
    Answers env (fun x => env.params.stage.lbPartitions x i (lineBufferReads env (slotView i c.results)))
      (slotView i (forEnabled (checkLineBuffer env) c).2.results).lbPartitions := by
  obtain ⟨c', same, after⟩ := forEnabled_surface (checkLineBuffer_own env) i c checked.1
  obtain ⟨w, _, e, answers, -, results⟩ := checkLineBuffer_results env i c' (by rw [same]; exact checked.2)
  have slot : slotView i (checkLineBuffer env i c').2.results = { slotView i c'.results with lbPartitions := w } := by
    rw [results]
    exact slotView_set_self i c'.results _
  rw [after, slot, ← same]
  exact answers

/-! ## Stage 3 -/

/-- The five checks that the loops of stage 3 make, in their order. -/
def slotChecksView (r : Results) : CheckResult × CheckResult × CheckResult × CheckResult × CheckResult :=
  (r.hsrCheck, r.vsrCheck, r.lbSizeCheck, r.fbcCheck, r.rotationCheck)

/-- What the loops of stage 3 leave in RESULTS, R214 to R217. A slot is read as far as stages 1 to 3 write it. -/
structure SlotsChecked (env : CalcEnv) (r : Results) : Prop where
  partitions : ∀ i, ((slotView i r).upTo 3).Checked →
    Answers env (fun x => env.params.stage.lbPartitions x i (lineBufferReads env ((slotView i r).upTo 3)))
      ((slotView i r).upTo 3).lbPartitions
  hsr : CheckSays (fun i => ((slotView i r).upTo 3).BadHsr env) .hsrNotSupportedByTaps .ok r.hsrCheck
  vsr : CheckSays (fun i => ((slotView i r).upTo 3).BadVsr env) .vsrNotSupportedByTaps .ok r.vsrCheck
  lines : CheckSays (fun i => ((slotView i r).upTo 3).BadLines) .notok .ok r.lbSizeCheck
  fbc : CheckSays (fun i => ((slotView i r).upTo 3).BadFbc env) .invalidRotationOrBppOrStereo .ok r.fbcCheck
  rotation : CheckSays (fun i => ((slotView i r).upTo 3).BadRotation) .invalidLinearOrStereoMode .ok r.rotationCheck

theorem SlotsChecked.congr {env : CalcEnv} {r r' : Results} (same : r.upTo 3 = r'.upTo 3) (h : SlotsChecked env r) :
    SlotsChecked env r' := by
  have checks : ∀ r : Results, slotChecksView (r.upTo 3) = slotChecksView r := fun _ => rfl
  have equal : slotChecksView r = slotChecksView r' := by rw [← checks, same, checks]
  simp only [slotChecksView, Prod.mk.injEq] at equal
  obtain ⟨hsr, vsr, lines, fbc, rotation⟩ := equal
  have slot := slotView_upTo_eq same
  exact {
    partitions := fun i => by rw [← slot]; exact h.partitions i
    hsr := by simp only [← slot, ← hsr]; exact h.hsr
    vsr := by simp only [← slot, ← vsr]; exact h.vsr
    lines := by simp only [← slot, ← lines]; exact h.lines
    fbc := by simp only [← slot, ← fbc]; exact h.fbc
    rotation := by simp only [← slot, ← rotation]; exact h.rotation }

/-- The partitions are not part of what stages 1 and 2 write. -/
theorem upTo_two_setPartitions (i k : Slot) (r : Results) (w : W64) :
    (slotView i { r with surfaces := r.surfaces.set k { slotView k r with lbPartitions := w } }).upTo 2
      = (slotView i r).upTo 2 := by
  by_cases same : i = k
  · subst same
    rw [slotView_set_self]
    rfl
  · rw [slotView_set_other i k r _ same]

theorem stage3_slotsChecked (env : CalcEnv) (c : CalcState) (unfailed : slotChecksView c.results = (.ok, .ok, .ok, .ok, .ok)) :
    SlotsChecked env (stage3 env c).2.results := by
  have ratiosLeave := Keeps.forEnabled fun i =>
    checkRatios_keeps (g := fun r => (r.lbSizeCheck, r.fbcCheck, r.rotationCheck)) env i fun _ _ _ => rfl
  have linesLeave := Keeps.forEnabled fun i => checkLineBuffer_keeps
    (g := fun r => (r.hsrCheck, r.vsrCheck, r.fbcCheck, r.rotationCheck)) env i (fun _ _ => rfl) (fun _ _ => rfl) fun _ _ => rfl
  have fbcLeaves := Keeps.forEnabled fun i => checkFbc_keeps
    (g := fun r => (r.surfaces, r.hsrCheck, r.vsrCheck, r.lbSizeCheck, r.rotationCheck)) env i fun _ _ => rfl
  have rotationLeaves := Keeps.forEnabled fun i => checkRotation_keeps
    (g := fun r => (r.surfaces, r.hsrCheck, r.vsrCheck, r.lbSizeCheck, r.fbcCheck)) i fun _ _ => rfl
  have shapes := fun i => Keeps.forEnabled fun k => checkLineBuffer_keeps (g := fun r => (slotView i r).upTo 2) env k
    (fun _ _ => rfl) (fun _ _ => rfl) fun r w => upTo_two_setPartitions i k r w
  unfold stage3
  simp only [CalcM.bind_apply, changeResults_apply]
  have before : slotChecksView ({ c with results := checkPipes env.dceip c.results } : CalcState).results
    = (.ok, .ok, .ok, .ok, .ok) := unfailed
  generalize ({ c with results := checkPipes env.dceip c.results } : CalcState) = c₁ at before ⊢
  have hsr := checkRatios_hsr env c₁
  have vsr := checkRatios_vsr env c₁
  specialize ratiosLeave c₁
  generalize (forEnabled (checkRatios env) c₁).2 = c₂ at hsr vsr ratiosLeave ⊢
  have lines := checkLineBuffer_lines env c₂
  have partitions := checkLineBuffer_partitions env c₂
  specialize linesLeave c₂
  replace shapes := fun i => shapes i c₂
  dsimp only at shapes
  generalize (forEnabled (checkLineBuffer env) c₂).2 = c₃ at lines partitions linesLeave shapes ⊢
  have fbc := checkFbc_fbc env c₃
  specialize fbcLeaves c₃
  generalize (forEnabled (checkFbc env) c₃).2 = c₄ at fbc fbcLeaves ⊢
  have rotation := checkRotation_rotation c₄
  specialize rotationLeaves c₄
  generalize (forEnabled checkRotation c₄).2 = c₅ at rotation rotationLeaves ⊢
  simp only [slotChecksView, Prod.mk.injEq] at before ratiosLeave linesLeave fbcLeaves rotationLeaves
  dsimp only at hsr vsr lines fbc rotation
  obtain ⟨hsr₁, vsr₁, lines₁, fbc₁, rotation₁⟩ := before
  obtain ⟨lines₂, fbc₂, rotation₂⟩ := ratiosLeave
  obtain ⟨hsr₃, vsr₃, fbc₃, rotation₃⟩ := linesLeave
  obtain ⟨slots₄, hsr₄, vsr₄, lines₄, rotation₄⟩ := fbcLeaves
  obtain ⟨slots₅, hsr₅, vsr₅, lines₅, fbc₅⟩ := rotationLeaves
  have slot₄ : ∀ i, slotView i c₄.results = slotView i c₃.results := fun i => congrArg (fun v => v[i]) slots₄
  have slot₅ : ∀ i, slotView i (checkMode c₅.results) = slotView i c₃.results := fun i =>
    (congrArg (fun v => v[i]) slots₅).trans (slot₄ i)
  rw [hsr₁, ← hsr₃, ← hsr₄, ← hsr₅] at hsr
  rw [vsr₁, ← vsr₃, ← vsr₄, ← vsr₅] at vsr
  rw [lines₂, lines₁, ← lines₄, ← lines₅] at lines
  rw [fbc₃, fbc₂, fbc₁, ← fbc₅] at fbc
  rw [rotation₄, rotation₃, rotation₂, rotation₁] at rotation
  refine ⟨fun i => ?partitions, ?hsr, ?vsr, ?lines, ?fbc, ?rotation⟩
  case partitions =>
    have shape := shapes i
    rw [slot₅]
    intro checked
    have checked₂ : ((slotView i c₂.results).upTo 2).Checked := by rw [← shape]; exact checked
    have answers : Answers env
        (fun x => env.params.stage.lbPartitions x i (lineBufferReads env ((slotView i c₂.results).upTo 2)))
        (slotView i c₃.results).lbPartitions := partitions i checked₂
    rw [← shape] at answers
    exact answers
  case hsr =>
    show CheckSays (fun i => ((slotView i (checkMode c₅.results)).upTo 2).BadHsr env) _ _ _
    simp only [slot₅, shapes]
    exact hsr
  case vsr =>
    show CheckSays (fun i => ((slotView i (checkMode c₅.results)).upTo 2).BadVsr env) _ _ _
    simp only [slot₅, shapes]
    exact vsr
  case lines =>
    simp only [slot₅]
    exact lines
  case fbc =>
    simp only [slot₅, ← slot₄]
    exact fbc
  case rotation =>
    simp only [slot₅, ← slot₄]
    have slot : ∀ i, slotView i c₄.results = slotView i c₅.results := fun i => (congrArg (fun v => v[i]) slots₅).symm
    simp only [slot]
    exact rotation

theorem resultsOf_slotsChecked (env : CalcEnv) (draws : Nat) : SlotsChecked env (resultsOf env draws) := by
  refine SlotsChecked.congr (resultsOf_upTo3 env draws (k := 3) (by omega)).symm ?_
  have unfailed : slotChecksView (afterStage2 env draws).results = (.ok, .ok, .ok, .ok, .ok) := by
    rw [afterStage2_eq, stage2_keeps (g := slotChecksView) env fun _ _ _ _ => rfl, afterStage1,
      stage1_keeps (g := slotChecksView) env fun _ _ => rfl]
    rfl
  rw [afterStage3]
  exact stage3_slotsChecked env _ unfailed

/-! ## The graphics slots (R201) -/

theorem classifyUnderlay_ne_graphics {env : CalcEnv} {u : Nat} {plane : Plane}
    (enabled : (classifyUnderlay env u plane).enable = true) : (classifyUnderlay env u plane).surfaceType ≠ .graphics := by
  cases plane with
  | luma =>
    rw [classifyUnderlay_luma] at enabled ⊢
    split at enabled
    case isFalse => cases enabled
    case isTrue used =>
      rw [if_pos used]
      cases env.mode.underlayFormat with
      | f420 | f422 | f444 => exact nofun
  | chroma =>
    rw [classifyUnderlay_chroma] at enabled ⊢
    split at enabled
    case isFalse => cases enabled
    case isTrue used =>
      rw [if_pos used]
      exact nofun

theorem classifyWriteback_surfaceType {env : CalcEnv} {t : SurfaceType} (enabled : (classifyWriteback env t).enable = true) :
    (classifyWriteback env t).surfaceType = t := by
  unfold classifyWriteback at enabled ⊢
  split at enabled
  case isFalse => cases enabled
  case isTrue used => rw [if_pos used]

theorem classifyGraphics_of_enabled {env : CalcEnv} {k : Nat} (enabled : (classifyGraphics env k).enable = true) :
    (classifyGraphics env k).surfaceType = .graphics ∧ (classifyGraphics env k).displayIndex = k := by
  unfold classifyGraphics at enabled ⊢
  split at enabled
  case isFalse => cases enabled
  case isTrue used =>
    rw [if_pos used]
    exact ⟨rfl, rfl⟩

/-- An enabled slot of type graphics is that of a display. -/
theorem classify_graphics {env : CalcEnv} {i : Slot} (enabled : (classify env i).enable = true)
    (graphics : (classify env i).surfaceType = .graphics) : ∃ q : Fin 6, i = graphicsSlot q := by
  match i with
  | 0 | 1 | 2 | 3 => exact absurd graphics (classifyUnderlay_ne_graphics enabled)
  | 4 => exact ⟨0, rfl⟩
  | 5 => exact ⟨1, rfl⟩
  | 6 => exact ⟨2, rfl⟩
  | 7 => exact ⟨3, rfl⟩
  | 8 => exact ⟨4, rfl⟩
  | 9 => exact ⟨5, rfl⟩
  | 10 => exact absurd ((classifyWriteback_surfaceType enabled).symm.trans graphics) (by decide)
  | 11 => exact absurd ((classifyWriteback_surfaceType enabled).symm.trans graphics) (by decide)

theorem isWriteback_eq_false_iff (t : SurfaceType) : t.isWriteback = false ↔ t ≠ .writebackLuma ∧ t ≠ .writebackChroma := by
  cases t <;> simp [SurfaceType.isWriteback]

theorem Surface.checked_iff (s : Surface) :
    s.Checked ↔ s.cls.enable = true ∧ s.cls.surfaceType ≠ .writebackLuma ∧ s.cls.surfaceType ≠ .writebackChroma := by
  rw [Surface.Checked, isWriteback_eq_false_iff]

/-- The bad slots of R216 are the graphics slots of the displays with FBC. -/
theorem exists_badFbc_iff {env : CalcEnv} {r : Results} (cls : ∀ i, (slotView i r).cls = classify env i) :
    (∃ i, ((slotView i r).upTo 3).BadFbc env) ↔ ∃ q : Fin 6, (slotView (graphicsSlot q) r).cls.enable = true
      ∧ (env.mode.display q.val).fbcEnable = true
      ∧ ((slotView (graphicsSlot q) r).geo.rotationAngle ≠ 0 ∨ (slotView (graphicsSlot q) r).geo.stereoMode ≠ .mono
        ∨ (slotView (graphicsSlot q) r).cls.bytesPerPixel ≠ 4) := by
  have shown : ∀ q : Fin 6, (slotView (graphicsSlot q) r).cls.enable = true →
      (slotView (graphicsSlot q) r).cls.surfaceType = .graphics ∧ (slotView (graphicsSlot q) r).cls.displayIndex = q := by
    intro q
    rw [cls, classify_graphicsSlot]
    exact classifyGraphics_of_enabled
  constructor
  · rintro ⟨i, enabled, ⟨graphics, fbc⟩, bad⟩
    obtain ⟨q, rfl⟩ := classify_graphics (env := env) (cls i ▸ enabled) (cls i ▸ graphics)
    refine ⟨q, enabled, ?_, bad⟩
    rw [← (shown q enabled).2]
    exact fbc
  · rintro ⟨q, enabled, fbc, bad⟩
    rw [← (shown q enabled).2] at fbc
    exact ⟨graphicsSlot q, enabled, ⟨(shown q enabled).1, fbc⟩, bad⟩

end Sys2Proof.Machine

namespace Sys2Proof

open Machine

/-- Settles O46: what the loops of stage 3 leave, which no later stage touches; a graphics slot is that of its display. -/
theorem slotChecks : Obligations.SlotChecks := by
  intro env draws r checked badHsr badVsr badLb badFbc badRotation lbSize
  have slots := resultsOf_slotsChecked env draws
  have cls := resultsOf_cls env draws
  rw [show resultsOf env draws = r from rfl] at slots
  simp only [show resultsOf env draws = r from rfl] at cls
  clear_value r
  have isChecked : ∀ i, (slotView i r).Checked ↔ checked i := fun i => Surface.checked_iff _
  refine ⟨fun i check => ?partitions, ?hsr, ?vsr, ?lines, ?fbc, slots.rotation⟩
  case partitions => exact slots.partitions i ((isChecked i).2 check)
  case hsr => exact slots.hsr.congr (exists_congr fun i => and_congr_left' (isChecked i))
  case vsr => exact slots.vsr.congr (exists_congr fun i => and_congr_left' (isChecked i))
  case lines => exact slots.lines.congr (exists_congr fun i => and_congr_left' (isChecked i))
  case fbc => exact slots.fbc.congr (exists_badFbc_iff cls)

end Sys2Proof
end

section
/-!
Stages 4 and 6 in the finished RESULTS (45_bwe_calculate.md R219, R223): the request fields, the buffer sizes before and after
throttling, the limits and the PTE check.
-/

namespace Sys2Proof.Machine

/-! ## Stage 4 -/

theorem halveUsefulBytes_keeps {β : Type} {g : Results → β} (s : Surface) (u : W64) : Keeps g (halveUsefulBytes s u) :=
  Keeps.ite (Keeps.fxOp _) (Keeps.pure _)

@[simp] theorem halveUsefulBytes_results (s : Surface) (u : W64) (c : CalcState) :
    (halveUsefulBytes s u c).2.results = c.results := halveUsefulBytes_keeps (g := id) s u c

theorem halveUsefulBytes_value (s : Surface) (u : W64) (c : CalcState) :
    some (halveUsefulBytes s u c).1
      = if s.cls.bytesPerPixel = 1 ∧ s.geo.tilingMode = .tiled ∧ s.geo.orthogonalRotation = true
        then (Fx.div u 0x2000000).word? else some u := by
  have two : fx 2 = 0x2000000 := by decide
  unfold halveUsefulBytes
  rw [two]
  simp only [Bool.and_eq_true, beq_iff_eq, and_assoc]
  split
  · exact (fxOp_of_isSome (Fx.div_word?_isSome u (by decide)) c).symm
  · rfl

/-- What stage 4 leaves in an enabled slot, R219. -/
structure Requested (env : CalcEnv) (i : Slot) (s : Surface) : Prop where
  bytes : Answers env (fun x => env.params.stage.bytesPerRequest x i (requestReads env s)) s.req.bytesPerRequest
  useful : ∃ u, Answers env (fun x => env.params.stage.usefulBytesPerRequest x i (requestReads env s)) u
    ∧ some s.req.usefulBytesPerRequest
      = if s.cls.bytesPerPixel = 1 ∧ s.geo.tilingMode = .tiled ∧ s.geo.orthogonalRotation = true
        then (Fx.div u 0x2000000).word? else some u
  lines : Answers env (fun x => env.params.stage.linesInterleaved x i (requestReads env s)) s.req.linesInterleaved
  latency : Answers env (fun x => env.params.stage.latencyHidingLines x i (requestReads env s)) s.req.latencyHidingLines

theorem Requested.upTo_iff {env : CalcEnv} {i : Slot} {s : Surface} :
    Requested env i (s.upTo 4) ↔ Requested env i s := ⟨fun h => { h with }, fun h => { h with }⟩

/-- Stage 4 is a loop whose body makes R219 for its slot and leaves the other slots. -/
theorem stage4_eq_forEnabled (env : CalcEnv) :
    ∃ f, stage4 env = forEnabled f ∧ (∀ i j : Slot, j ≠ i → Keeps (slotView j) (f i))
      ∧ ∀ i c, Requested env i (slotView i (f i c).2.results) := by
  refine ⟨_, rfl, fun i j hj => ?own, fun i c => ?body⟩
  case own =>
    exact Keeps.bind (Keeps.getSurface i) fun _ => Keeps.bind (Keeps.callStage _ _ (slotView_ignoresExt j)) fun _ =>
      Keeps.bind (Keeps.callStage _ _ (slotView_ignoresExt j)) fun _ => Keeps.bind (halveUsefulBytes_keeps _ _) fun _ =>
      Keeps.bind (Keeps.callStage _ _ (slotView_ignoresExt j)) fun _ =>
      Keeps.bind (Keeps.callStage _ _ (slotView_ignoresExt j)) fun _ =>
      Keeps.changeSurface fun r => slotView_set_other j i r _ hj
  case body =>
    simp only [CalcM.bind_apply, getSurface_eq_slotView, slotView_changeSurface_self, halveUsefulBytes_results,
      slotView_callStage]
    exact ⟨callStage_answers _ _ _, ⟨_, callStage_answers _ _ _, halveUsefulBytes_value _ _ _⟩, callStage_answers _ _ _,
      callStage_answers _ _ _⟩

theorem resultsOf_requested (env : CalcEnv) (draws : Nat) (i : Slot)
    (enabled : (slotView i (resultsOf env draws)).cls.enable = true) :
    Requested env i (slotView i (resultsOf env draws)) := by
  have before := slotView_upTo_eq (resultsOf_upTo3 env draws (k := 1) (by omega)) i
  have after := slotView_upTo_eq (resultsOf_upTo4 env draws (k := 4) (by omega)) i
  rw [Surface.cls_eq_of_upTo before le_rfl] at enabled
  rw [← Requested.upTo_iff, after, Requested.upTo_iff, afterStage4]
  obtain ⟨f, loop, own, body⟩ := stage4_eq_forEnabled env
  obtain ⟨c', -, left⟩ := forEnabled_surface own i (afterStage3 env draws) enabled
  rw [loop, left]
  exact body i c'

/-! ## The loops of stage 6 -/

/-- The loops of stage 6 change the buffer fields of their own slot alone. -/
theorem bufferLoops_keep {β : Type} {g : Results → β} (env : CalcEnv) (i : Slot) (hx : IgnoresExt g)
    (hs : ∀ (r : Results) (b : SurfBuffers), g { r with surfaces := r.surfaces.set i { r.surfaces[i] with buf := b } } = g r) :
    Keeps g (setBufferSize env i) ∧ Keeps g (throttleBuffer env i) ∧ Keeps g (setRequestLimits env i) := by
  unfold setBufferSize throttleBuffer setRequestLimits
  refine ⟨?_, ?_, ?_⟩
  all_goals
    repeat' with_reducible first
      | exact Keeps.pure _
      | exact Keeps.getSurface _
      | exact Keeps.getResults
      | exact Keeps.fxOp _
      | exact Keeps.callStage _ _ hx
      | exact Keeps.changeSurface fun r => hs r _
      | apply Keeps.bind
      | apply Keeps.ite
      | intro _

theorem bufferLoops_own (env : CalcEnv) (i j : Slot) (h : j ≠ i) :
    Keeps (slotView j) (setBufferSize env i) ∧ Keeps (slotView j) (throttleBuffer env i)
      ∧ Keeps (slotView j) (setRequestLimits env i) :=
  bufferLoops_keep env i (slotView_ignoresExt j) fun r _ => slotView_set_other j i r _ h

/-- The loops of stage 6 leave what the earlier stages write. -/
theorem bufferLoops_upTo (env : CalcEnv) (i : Slot) :
    Keeps (Results.upTo 5) (setBufferSize env i) ∧ Keeps (Results.upTo 5) (throttleBuffer env i)
      ∧ Keeps (Results.upTo 5) (setRequestLimits env i) := by
  have ignores : IgnoresSurface (Results.upTo 5) fun a b => b = { a with buf := b.buf } :=
    Results.upTo_ignoresSurface fun a b e => by
      rw [e]; simp only [Surface.upTo, onceStage_of_lt (by omega : 5 < 6) b.buf a.buf]
  exact bufferLoops_keep env i (Results.upTo_ignoresExt 5) fun r b => ignores r i _ rfl

/-- The size of a slot's buffer before throttling, for what its formula reads; `writeback` is whether slot 10 is enabled (R223). -/
def UnthrottledSize (env : CalcEnv) (i : Slot) (writeback : Bool) (s : Surface) (u : W64) : Prop :=
  ∃ b, Answers env (fun x => env.params.stage.dataBufferSize x i (bufferReads env s)) b
    ∧ some u = if s.cls.surfaceType = .graphics ∧ env.mode.n = 1 ∧ writeback = false
      then (Fx.mul b env.dceip.singleDisplayGraphicsBufferFactor).word? else some b

theorem setBufferSize_slot (env : CalcEnv) (i : Slot) (c : CalcState) :
    let s := slotView i c.results
    ∃ u, UnthrottledSize env i (slotView 10 c.results).cls.enable s u
      ∧ slotView i (setBufferSize env i c).2.results = { s with buf := { s.buf with dataBufferSize := u } } := by
  intro s
  have slot : slotView i c.results = s := rfl
  have kept := slotView_callStage env (fun x => env.params.stage.dataBufferSize x i (bufferReads env s)) i c
  have answers := callStage_answers env (fun x => env.params.stage.dataBufferSize x i (bufferReads env s)) c
  have last : ∀ (b : W64) (c' : CalcState), slotView i c'.results = s →
      slotView i (changeSurface i (fun s => { s with buf := { s.buf with dataBufferSize := b } }) c').2.results
        = { s with buf := { s.buf with dataBufferSize := b } } := fun b c' same => by rw [slotView_changeSurface_self, same]
  unfold setBufferSize UnthrottledSize
  simp only [CalcM.bind_apply, getSurface_eq_slotView, getResults_apply, slot, Bool.and_eq_true, Bool.not_eq_true', beq_iff_eq,
    Results.enabled, surface_eq_slotView, and_assoc]
  generalize callStage env _ c = called at kept answers ⊢
  by_cases single : s.cls.surfaceType = .graphics ∧ env.mode.n = 1 ∧ (slotView 10 c.results).cls.enable = false
  · simp only [if_pos single, CalcM.bind_apply]
    refine ⟨_, ⟨called.1, answers, (fxOp_mul _ _ called.2).symm⟩, last _ _ ?_⟩
    rw [fxOp_results, kept]
  · simp only [if_neg single, CalcM.bind_apply, CalcM.pure_apply]
    exact ⟨_, ⟨called.1, answers, rfl⟩, last _ _ kept⟩

theorem throttleBuffer_slot (env : CalcEnv) (i : Slot) (c : CalcState) :
    let s := slotView i c.results
    ∃ b, Answers env (fun x => env.params.stage.throttledBufferSize x i (bufferReads env s)) b
      ∧ slotView i (throttleBuffer env i c).2.results
        = { s with buf := { s.buf with dataBufferSize := Fx.min b s.buf.dataBufferSize } } := by
  intro s
  refine ⟨_, callStage_answers env (fun x => env.params.stage.throttledBufferSize x i (bufferReads env s)) c, ?_⟩
  unfold throttleBuffer
  simp only [CalcM.bind_apply, getSurface_eq_slotView, slotView_changeSurface_self, slotView_callStage]
  rfl

theorem setRequestLimits_slot (env : CalcEnv) (i : Slot) (c : CalcState) :
    let s := slotView i c.results
    ∃ chunk pte, Answers env (fun x => env.params.stage.chunkRequestLimit x i (limitReads env s)) chunk
      ∧ (s.geo.scatterGatherEnable = true → Answers env (fun x => env.params.stage.pteRequestLimit x i (limitReads env s)) pte)
      ∧ (s.geo.scatterGatherEnable = false → pte = s.buf.outstandingPteRequestLimit)
      ∧ slotView i (setRequestLimits env i c).2.results
        = { s with buf := { s.buf with outstandingChunkRequestLimit := chunk, outstandingPteRequestLimit := pte } } := by
  intro s
  have slot : slotView i c.results = s := rfl
  have answers := callStage_answers env (fun x => env.params.stage.chunkRequestLimit x i (limitReads env s)) c
  unfold setRequestLimits
  simp only [CalcM.bind_apply, getSurface_eq_slotView, slot]
  have kept := slotView_callStage env (fun x => env.params.stage.chunkRequestLimit x i (limitReads env s)) i c
  generalize callStage env _ c = called at kept answers ⊢
  have set := slotView_changeSurface_self i
    (fun s => { s with buf := { s.buf with outstandingChunkRequestLimit := called.1 } }) called.2
  rw [kept] at set
  generalize (changeSurface i _ called.2).2 = c' at set ⊢
  cases scatter : s.geo.scatterGatherEnable with
  | true =>
    refine ⟨called.1, _, answers, fun _ =>
      callStage_answers env (fun x => env.params.stage.pteRequestLimit x i (limitReads env s)) c', nofun, ?_⟩
    simp only [if_true, CalcM.bind_apply, slotView_changeSurface_self, slotView_callStage, set]
    rfl
  | false =>
    refine ⟨called.1, _, answers, nofun, fun _ => rfl, ?_⟩
    simp only [Bool.false_eq_true, if_false, CalcM.pure_apply, set]
    rfl

/-! ## Throttling and the PTE check -/

/-- Whether buffers of these sizes are throttled, for the slots `t` (R223). -/
def Throttles (env : CalcEnv) (t : Slot → Surface) (sizes : Slot → W64) : Prop :=
  1 < env.mode.n
    ∨ env.dceip.globalRequestBufferSize.toInt < (wrappedSum ((allSlots.filter fun i => (t i).cls.enable).map sizes)).toInt

theorem mustThrottle_keeps {β : Type} {g : Results → β} (env : CalcEnv) : Keeps g (mustThrottle env) :=
  Keeps.ite (Keeps.pure _) (Keeps.bind Keeps.getResults fun _ => Keeps.bind (Keeps.sumWords _) fun _ => Keeps.pure _)

theorem mustThrottle_iff (env : CalcEnv) (c : CalcState) :
    (mustThrottle env c).1 = true
      ↔ Throttles env (fun i => slotView i c.results) fun i => (slotView i c.results).buf.dataBufferSize := by
  have sizes : (c.results.enabledViews fun s => s.buf.dataBufferSize).map (·.2)
      = (allSlots.filter fun i => (slotView i c.results).cls.enable).map fun i => (slotView i c.results).buf.dataBufferSize := by
    rw [Results.enabledViews, List.map_map]
    rfl
  unfold mustThrottle Throttles
  by_cases several : 1 < env.mode.n
  · simp only [gt_iff_lt, several, if_true, CalcM.pure_apply, true_or]
  · simp only [gt_iff_lt, several, if_false, CalcM.bind_apply, CalcM.pure_apply, getResults_apply, sumWords_value, sizes,
      Fx.gt_iff, false_or]

/-- The PTE limits of the enabled slots with scatter-gather, in the order of the slots. -/
def pteLimits (t : Slot → Surface) : List W64 :=
  ((allSlots.filter fun i => (t i).cls.enable).filter fun i => (t i).geo.scatterGatherEnable).map fun i =>
    (t i).buf.outstandingPteRequestLimit

theorem checkPteRequests_results (env : CalcEnv) (c : CalcState) :
    ∃ limit, (Fx.fromInt env.dceip.pteRequestQueueSize).word? = some limit
      ∧ (checkPteRequests env c).2.results
        = { c.results with
            pteRequestCheck := if limit.toInt < (wrappedSum (pteLimits fun i => slotView i c.results)).toInt
              then .exceededPteQueue else .ok } := by
  have limits : ((((c.results.enabledViews fun s => (s.geo.scatterGatherEnable, s.buf.outstandingPteRequestLimit)).map
      (·.2)).filter (·.1)).map (·.2)) = pteLimits fun i => slotView i c.results := by
    rw [Results.enabledViews, List.map_map, List.filter_map, List.map_map]
    rfl
  unfold checkPteRequests
  simp only [CalcM.bind_apply, getResults_apply, limits, sumWords_value, changeResults_apply, Fx.gt_iff, fxOp_results,
    sumWords_results]
  refine ⟨_, fxOp_of_isSome (Fx.fromInt_word?_isSome _) _, rfl⟩

/-! ## Stage 6 -/

/-- What the throttling step makes of a slot: its size stays, or is the formula's answer up to the size it had. -/
def ThrottledFrom (env : CalcEnv) (i : Slot) (throttle : Prop) (s s' : Surface) : Prop :=
  ∃ size, s' = { s with buf := { s.buf with dataBufferSize := size } } ∧ (¬throttle → size = s.buf.dataBufferSize)
    ∧ (throttle → ∃ b, Answers env (fun x => env.params.stage.throttledBufferSize x i (bufferReads env s)) b
      ∧ size = Fx.min b s.buf.dataBufferSize)

/-- What the limits step makes of a slot. -/
def LimitsFrom (env : CalcEnv) (i : Slot) (s s' : Surface) : Prop :=
  ∃ chunk pte, Answers env (fun x => env.params.stage.chunkRequestLimit x i (limitReads env s)) chunk
    ∧ (s.geo.scatterGatherEnable = true → Answers env (fun x => env.params.stage.pteRequestLimit x i (limitReads env s)) pte)
    ∧ (s.geo.scatterGatherEnable = false → pte = s.buf.outstandingPteRequestLimit)
    ∧ s' = { s with buf := { s.buf with outstandingChunkRequestLimit := chunk, outstandingPteRequestLimit := pte } }

/-- What stage 6 leaves in an enabled slot, R223. -/
structure SlotBudgeted (env : CalcEnv) (i : Slot) (writeback : Bool) (throttle : Prop) (s : Surface) (unthrottled : W64) :
    Prop where
  size : UnthrottledSize env i writeback s unthrottled
  stays : ¬throttle → s.buf.dataBufferSize = unthrottled
  throttled : throttle → ∃ b, Answers env (fun x => env.params.stage.throttledBufferSize x i (bufferReads env s)) b
    ∧ s.buf.dataBufferSize = Fx.min b unthrottled
  chunk : Answers env (fun x => env.params.stage.chunkRequestLimit x i (limitReads env s)) s.buf.outstandingChunkRequestLimit
  pte : s.geo.scatterGatherEnable = true →
    Answers env (fun x => env.params.stage.pteRequestLimit x i (limitReads env s)) s.buf.outstandingPteRequestLimit
  noPte : s.geo.scatterGatherEnable = false → s.buf.outstandingPteRequestLimit = 0

/-- The three steps one after the other: the formulas of the buffers do not read what the steps have written but the size. -/
theorem slotBudgeted_of_steps {env : CalcEnv} {i : Slot} {writeback : Bool} {throttle : Prop} {s s₁ s₂ s₃ : Surface} {u : W64}
    (fresh : s.buf.outstandingPteRequestLimit = 0) (size : UnthrottledSize env i writeback s u)
    (sized : s₁ = { s with buf := { s.buf with dataBufferSize := u } }) (throttled : ThrottledFrom env i throttle s₁ s₂)
    (limited : LimitsFrom env i s₂ s₃) : SlotBudgeted env i writeback throttle s₃ u := by
  subst sized
  obtain ⟨size₂, rfl, stays, lowered⟩ := throttled
  obtain ⟨chunk, pte, answersChunk, answersPte, noPte, rfl⟩ := limited
  exact ⟨size, stays, lowered, answersChunk, answersPte, fun off => (noPte off).trans fresh⟩

/-- What stage 6 leaves in the slots `t`, and in the PTE check. -/
structure Budgeted (env : CalcEnv) (unthrottled : Slot → W64) (t : Slot → Surface) (pteCheck : CheckResult) : Prop where
  slots : ∀ i, (t i).cls.enable = true →
    SlotBudgeted env i (t 10).cls.enable (Throttles env t unthrottled) (t i) (unthrottled i)
  check : ∃ limit, (Fx.fromInt env.dceip.pteRequestQueueSize).word? = some limit
    ∧ pteCheck = if limit.toInt < (wrappedSum (pteLimits t)).toInt then .exceededPteQueue else .ok

theorem Budgeted.upTo_iff {env : CalcEnv} {u : Slot → W64} {t : Slot → Surface} {x : CheckResult} :
    Budgeted env u (fun i => (t i).upTo 6) x ↔ Budgeted env u t x :=
  ⟨fun h => { h with slots := fun i on => { h.slots i on with } }, fun h => { h with slots := fun i on => { h.slots i on with } }⟩

/-! The loops, slot by slot. -/

theorem cls_eq_of_upTo_five {r r' : Results} (same : r.upTo 5 = r'.upTo 5) (i : Slot) :
    (slotView i r).cls = (slotView i r').cls := Surface.cls_eq_of_upTo (slotView_upTo_eq same i) (by omega)

theorem setBufferSizes_slot (env : CalcEnv) (i : Slot) (c : CalcState) (enabled : (slotView i c.results).cls.enable = true) :
    let s := slotView i c.results
    ∃ u, UnthrottledSize env i (slotView 10 c.results).cls.enable s u
      ∧ slotView i (forEnabled (setBufferSize env) c).2.results = { s with buf := { s.buf with dataBufferSize := u } } := by
  obtain ⟨c', same, view, after⟩ := forEnabled_slot (Results.upTo 5) (setBufferSize env)
    (fun i j h => (bufferLoops_own env i j h).1) (fun i => (bufferLoops_upTo env i).1) i c
  rw [after, if_pos enabled, ← same, ← cls_eq_of_upTo_five view]
  exact setBufferSize_slot env i c'

theorem throttleBuffers_slot (env : CalcEnv) (i : Slot) (c : CalcState) (enabled : (slotView i c.results).cls.enable = true)
    {throttle : Prop} (on : throttle) :
    ThrottledFrom env i throttle (slotView i c.results) (slotView i (forEnabled (throttleBuffer env) c).2.results) := by
  obtain ⟨c', same, after⟩ := forEnabled_surface (fun i j h => (bufferLoops_own env i j h).2.1) i c enabled
  obtain ⟨b, answers, slot⟩ := throttleBuffer_slot env i c'
  rw [after, ← same]
  exact ⟨_, slot, fun off => absurd on off, fun _ => ⟨b, answers, rfl⟩⟩

theorem setRequestLimitsLoop_slot (env : CalcEnv) (i : Slot) (c : CalcState)
    (enabled : (slotView i c.results).cls.enable = true) :
    LimitsFrom env i (slotView i c.results) (slotView i (forEnabled (setRequestLimits env) c).2.results) := by
  obtain ⟨c', same, after⟩ := forEnabled_surface (fun i j h => (bufferLoops_own env i j h).2.2) i c enabled
  rw [after, ← same]
  exact setRequestLimits_slot env i c'

/-- Of the slots, throttling looks at their classes and at the sizes. -/
theorem throttles_congr {env : CalcEnv} {t t' : Slot → Surface} {sizes : Slot → W64} (cls : ∀ i, (t i).cls = (t' i).cls) :
    Throttles env t sizes = Throttles env t' sizes := by simp only [Throttles, cls]

/-- The steps of stage 6 one after the other. -/
theorem stage6_eq (env : CalcEnv) {c c₁ c₂ : CalcState} {on : Bool} (sized : (forEnabled (setBufferSize env) c).2 = c₁)
    (must : mustThrottle env c₁ = (on, c₂)) :
    stage6 env c = checkPteRequests env
      (forEnabled (setRequestLimits env) (if on = true then (forEnabled (throttleBuffer env) c₂).2 else c₂)).2 := by
  unfold stage6
  simp only [CalcM.bind_apply, sized, must]
  by_cases throttle : on = true
  · rw [if_pos throttle, if_pos throttle, CalcM.bind_apply, CalcM.bind_apply]
  · rw [if_neg throttle, if_neg throttle, CalcM.bind_apply]

theorem stage6_budgeted (env : CalcEnv) (c : CalcState)
    (fresh : ∀ i, (slotView i c.results).buf.outstandingPteRequestLimit = 0) :
    ∃ unthrottled, Budgeted env unthrottled (fun i => slotView i (stage6 env c).2.results)
      (stage6 env c).2.results.pteRequestCheck := by
  have sizes := fun i => setBufferSizes_slot env i c
  have sizesLeave := Keeps.forEnabled (fun i => (bufferLoops_upTo env i).1) c
  generalize sized : (forEnabled (setBufferSize env) c).2 = c₁ at sizes sizesLeave
  have throttles := mustThrottle_iff env c₁
  have same : (mustThrottle env c₁).2.results = c₁.results := mustThrottle_keeps (g := id) env c₁
  obtain ⟨on, c₂, must⟩ : ∃ on c₂, mustThrottle env c₁ = (on, c₂) := ⟨_, _, rfl⟩
  rw [must] at throttles same
  rw [stage6_eq env sized must]
  have step : ∀ i, (slotView i c₁.results).cls.enable = true → ThrottledFrom env i (on = true) (slotView i c₁.results)
      (slotView i (if on = true then (forEnabled (throttleBuffer env) c₂).2 else c₂).results) := by
    intro i enabled
    rw [← same] at enabled ⊢
    by_cases throttle : on = true
    · rw [if_pos throttle]
      exact throttleBuffers_slot env i c₂ enabled throttle
    · rw [if_neg throttle]
      exact ⟨_, rfl, fun _ => rfl, fun yes => absurd yes throttle⟩
  have stepLeaves : (if on = true then (forEnabled (throttleBuffer env) c₂).2 else c₂).results.upTo 5 = c₂.results.upTo 5 := by
    split
    · exact Keeps.forEnabled (fun i => (bufferLoops_upTo env i).2.1) c₂
    · rfl
  generalize (if on = true then (forEnabled (throttleBuffer env) c₂).2 else c₂) = c₃ at step stepLeaves ⊢
  have limits := fun i => setRequestLimitsLoop_slot env i c₃
  have limitsLeave := Keeps.forEnabled (fun i => (bufferLoops_upTo env i).2.2) c₃
  generalize (forEnabled (setRequestLimits env) c₃).2 = c₄ at limits limitsLeave ⊢
  obtain ⟨limit, value, checked⟩ := checkPteRequests_results env c₄
  rw [checked]
  rw [same] at stepLeaves
  have cls₁ := cls_eq_of_upTo_five sizesLeave
  have cls₃ := cls_eq_of_upTo_five stepLeaves
  have cls₄ := cls_eq_of_upTo_five limitsLeave
  have cls : ∀ i, (slotView i c₄.results).cls = (slotView i c₁.results).cls := fun i => (cls₄ i).trans (cls₃ i)
  refine ⟨fun i => (slotView i c₁.results).buf.dataBufferSize, fun i enabled => ?slot, limit, value, rfl⟩
  show SlotBudgeted env i (slotView 10 c₄.results).cls.enable (Throttles env (fun i => slotView i c₄.results) _)
    (slotView i c₄.results) (slotView i c₁.results).buf.dataBufferSize
  replace enabled : (slotView i c₄.results).cls.enable = true := enabled
  have enabled₁ : (slotView i c₁.results).cls.enable = true := by rwa [← cls]
  obtain ⟨u, size, slot₁⟩ := sizes i (by rwa [← cls₁])
  rw [throttles_congr cls, ← throttles, cls 10, cls₁ 10, slot₁]
  exact slotBudgeted_of_steps (fresh i) size slot₁ (step i enabled₁) (limits i (by rwa [cls₃]))

/-! ## The finished RESULTS -/

/-- The buffer fields of a slot. -/
def Surface.buffers (s : Surface) : SurfBuffers := s.buf

/-- No buffer field is written before stage 6. -/
theorem buffers_before (env : CalcEnv) (draws : Nat) (i : Slot) : (slotView i (afterStage5 env draws).results).buf = {} := by
  have ext : IgnoresExt (surfacesView Surface.buffers) := surfacesView_ignoresExt _
  have surface : ∀ change : Surface → Surface → Prop, (∀ a b, change a b → b.buffers = a.buffers) →
      IgnoresSurface (surfacesView Surface.buffers) change := fun _ same r i s changed =>
    surfacesView_set _ r i s (same _ _ changed)
  have before : surfacesView Surface.buffers (afterStage5 env draws).results
      = surfacesView Surface.buffers (afterStage1 env draws).results := by
    rw [afterStage5, stage5_keeps env ext (surface _ fun a b e => by rw [e]; rfl), afterStage4,
      stage4_keeps env ext (surface _ fun a b e => by rw [e]; rfl), afterStage3,
      stage3_keeps env ext (surface _ fun a b e => by rw [e]; rfl) (fun _ _ _ _ _ _ _ _ _ _ _ => rfl), afterStage2_eq,
      stage2_keeps env (surface _ fun a b e => by rw [e]; rfl)]
  have view : ∀ r, (slotView i r).buf = surfacesView Surface.buffers r i := fun _ => rfl
  rw [view, before, ← view, afterStage1]
  simp [stage1, slotView, CalcState.start, Results.zero]

theorem pteLimits_eq (r : Results) :
    pteLimits (fun i => slotView i r) = (r.enabledSurfaces.filter fun sf => sf.geo.scatterGatherEnable).map
      fun sf => sf.buf.outstandingPteRequestLimit := by
  rw [Results.enabledSurfaces, List.filter_map, List.map_map]
  rfl

theorem resultsOf_budgeted (env : CalcEnv) (draws : Nat) :
    ∃ unthrottled, Budgeted env unthrottled (fun i => slotView i (resultsOf env draws))
      (resultsOf env draws).pteRequestCheck := by
  have upTo := resultsOf_upTo6 env draws (k := 6) (by omega)
  have slots := slotView_upTo_eq upTo
  have view : ∀ r : Results, (r.upTo 6).pteRequestCheck = r.pteRequestCheck := fun _ => rfl
  obtain ⟨u, budgeted⟩ := stage6_budgeted env (afterStage5 env draws) fun i => by rw [buffers_before]
  refine ⟨u, ?_⟩
  rw [← Budgeted.upTo_iff, ← view, upTo, view, funext slots, Budgeted.upTo_iff, afterStage6]
  exact budgeted

end Sys2Proof.Machine

namespace Sys2Proof

open Machine

/-- Settles O47: what stages 4 and 6 leave in the slots, with the sizes before throttling as the witness. -/
theorem requestBudgets : Obligations.RequestBudgets := by
  intro env draws r f enabled
  have requested := resultsOf_requested env draws
  obtain ⟨unthrottled, budgeted⟩ := resultsOf_budgeted env draws
  rw [show resultsOf env draws = r from rfl] at budgeted
  simp only [show resultsOf env draws = r from rfl] at requested
  clear_value r
  obtain ⟨slots, limit, value, checked⟩ := budgeted
  refine ⟨fun i on => ?requests, ⟨unthrottled, fun i on => (slots i on).size, fun i on => ?sizes⟩, fun i on => ?limits,
    limit, value, ?check⟩
  case requests =>
    obtain ⟨bytes, useful, lines, latency⟩ := requested i on
    exact ⟨bytes, useful, lines, latency⟩
  case sizes =>
    refine ⟨(slots i on).stays, fun throttle => ?_⟩
    obtain ⟨b, answers, size⟩ := (slots i on).throttled throttle
    have size_eq : r.surfaces[i].buf.dataBufferSize = if (unthrottled i).toInt < b.toInt then unthrottled i else b :=
      size.trans (Fx.min_eq _ _)
    rw [size_eq]
    refine ⟨?_, b, answers, fun le => if_neg (by omega)⟩
    split <;> omega
  case limits => exact ⟨(slots i on).chunk, (slots i on).pte, (slots i on).noPte⟩
  case check =>
    rw [checked, pteLimits_eq]

end Sys2Proof
end

section
/-!
A disabled slot through CALC_CORE (45_bwe_calculate.md R202): no stage writes a per-surface field of a slot that stage 1 did not
enable, nor does a formula write its extension fields.
-/

namespace Sys2Proof.Machine

/-! ## Extension fields of another slot -/

theorem extSlot_cons (e : Nat × W64) (l : List (Nat × W64)) (k : Nat) :
    extSlot (e :: l) k = if e.1 = k then e.2 else extSlot l k := by
  unfold extSlot
  by_cases here : e.1 = k
  · rw [List.find?_cons_of_pos (by simpa using here), if_pos here]
    rfl
  · rw [List.find?_cons_of_neg (by simpa using here), if_neg here]

theorem extSlot_setExtSlot_of_ne {k k' : Nat} (h : k' ≠ k) (v : W64) (l : List (Nat × W64)) :
    extSlot (setExtSlot l k v) k' = extSlot l k' := by
  have cons : ∀ l, extSlot (if v = 0 then l else (k, v) :: l) k' = extSlot l k' := by
    intro l
    split
    · rfl
    · rw [extSlot_cons, if_neg h.symm]
  induction l with
  | nil => exact cons []
  | cons e l ih =>
    rw [setExtSlot]
    split
    · exact cons (e :: l)
    · split
      next at_key =>
        rw [cons, extSlot_cons, if_neg (by omega)]
      · rw [extSlot_cons, extSlot_cons, ih]

/-! ## A blank slot -/

/-- Slot i holds no per-surface field, the extension arrays among them. -/
structure Blank (i : Slot) (r : Results) : Prop where
  surface : slotView i r = {}
  ext : ∀ j, 36 ≤ j → j < 120 → extSlot r.ext (128 + 16 * j + i.val) = 0

/-- A calculation leaves slot i blank. -/
def LeavesBlank {α : Type} (i : Slot) (m : CalcM α) : Prop := ∀ c, Blank i c.results → Blank i (m c).2.results

/-- A formula may not write the extension fields of a slot that is not enabled. -/
theorem Blank.extAllowed {i : Slot} {r : Results} (h : Blank i r) {j : Nat} (lo : 36 ≤ j) :
    r.extAllowed (128 + 16 * j + i.val) = false := by
  have disabled : r.enabledNat i.val = false := by
    rw [Results.enabledNat, dif_pos i.isLt]
    show (slotView i r).cls.enable = false
    rw [h.surface]
  have hi := i.isLt
  have index : (128 + 16 * j + i.val - 128) % 16 = i.val := by omega
  have above : ¬128 + 16 * j + i.val < 128 := by omega
  rw [Results.extAllowed, index, disabled, Bool.and_false, Bool.or_false, decide_eq_false above, Bool.and_false]

theorem Blank.setExt {i : Slot} {r : Results} (h : Blank i r) {k : Nat} (allowed : r.extAllowed k = true) (v : W64) :
    Blank i { r with ext := setExtSlot r.ext k v } := by
  refine ⟨h.surface, fun j lo hi => ?_⟩
  have other : 128 + 16 * j + i.val ≠ k := by
    rintro rfl
    rw [h.extAllowed lo] at allowed
    cases allowed
  exact (extSlot_setExtSlot_of_ne other v r.ext).trans (h.ext j lo hi)

theorem Blank.writeExt {i : Slot} {r : Results} (h : Blank i r) (writes : List (Nat × W64)) : Blank i (r.writeExt writes) := by
  unfold Results.writeExt
  induction writes generalizing r with
  | nil => exact h
  | cons w writes ih =>
    rw [List.foldl_cons]
    split
    next allowed => exact ih (h.setExt allowed w.2)
    · exact ih h

namespace LeavesBlank

variable {α β : Type} {i : Slot}

theorem bind {m : CalcM α} {f : α → CalcM β} (hm : LeavesBlank i m) (hf : ∀ a, LeavesBlank i (f a)) :
    LeavesBlank i (m >>= f) := fun c h => hf _ _ (hm c h)

/-- What leaves every part of RESULTS leaves a blank slot. -/
theorem of_keeps {m : CalcM α} (h : Keeps id m) : LeavesBlank i m := fun c blank => by
  rw [show (m c).2.results = c.results from h c]
  exact blank

theorem pure (a : α) : LeavesBlank i (Pure.pure a : CalcM α) := of_keeps (Keeps.pure a)

theorem getResults : LeavesBlank i Machine.getResults := of_keeps Keeps.getResults

theorem getSurface (k : Slot) : LeavesBlank i (Machine.getSurface k) := of_keeps (Keeps.getSurface k)

theorem fxOp (x : FxResult) : LeavesBlank i (Machine.fxOp x) := of_keeps (Keeps.fxOp x)

theorem sumWords (ws : List W64) : LeavesBlank i (Machine.sumWords ws) := of_keeps (Keeps.sumWords ws)

theorem ite {p : Prop} [Decidable p] {m m' : CalcM α} (h : LeavesBlank i m) (h' : LeavesBlank i m') :
    LeavesBlank i (if p then m else m') := by split <;> assumption

theorem changeResults {f : Results → Results} (h : ∀ r, (f r).surfaces = r.surfaces ∧ (f r).ext = r.ext) :
    LeavesBlank i (Machine.changeResults f) := fun c blank => by
  obtain ⟨surfaces, ext⟩ := h c.results
  have view : ∀ r : Results, slotView i r = r.surfaces[i] := fun _ => rfl
  rw [changeResults_apply]
  refine ⟨?_, fun j lo hi => ?_⟩
  · rw [view, surfaces]
    exact blank.surface
  · rw [ext]
    exact blank.ext j lo hi

theorem changeSurface {k : Slot} (h : k ≠ i) (f : Surface → Surface) : LeavesBlank i (Machine.changeSurface k f) :=
  fun c blank => ⟨(slotView_changeSurface_other k i f c h.symm).trans blank.surface, blank.ext⟩

theorem callStage (env : CalcEnv) (f : Config.Ext → Config.StageProgram) : LeavesBlank i (Machine.callStage env f) := by
  have runs : ∀ ops done, LeavesBlank i (runOps ops done) := fun ops done c blank => by
    rw [runOps_results]
    exact blank
  exact bind getResults fun _ => bind (runs _ _) fun _ => bind (fun c blank => blank.writeExt _) fun _ => pure _

theorem forTiers {f : Tier → CalcM α} (h : ∀ t, LeavesBlank i (f t)) : LeavesBlank i (Machine.forTiers f) :=
  bind (h _) fun _ => bind (h _) fun _ => bind (h _) fun _ => pure _

/-- A loop over the enabled slots runs its body for other slots alone. -/
theorem forEnabled {f : Slot → CalcM Unit} (h : ∀ k, k ≠ i → LeavesBlank i (f k)) : LeavesBlank i (Machine.forEnabled f) := by
  have body : ∀ k, LeavesBlank i (enabledBody f k) := by
    intro k c blank
    rw [enabledBody_apply]
    split
    next enabled =>
      refine h k ?_ c blank
      rintro rfl
      rw [blank.surface] at enabled
      cases enabled
    · exact blank
  have loop : ∀ l : List Slot, LeavesBlank i (l.forM (enabledBody f)) := by
    intro l
    induction l with
    | nil => exact pure ()
    | cons k l ih => exact bind (body k) fun _ => ih
  exact loop allSlots

end LeavesBlank

/-! ## The stages -/

section

variable (env : CalcEnv) (i : Slot)

theorem stage2_leavesBlank : LeavesBlank i (stage2 env) :=
  LeavesBlank.forEnabled fun k other => LeavesBlank.bind (LeavesBlank.getSurface k) fun _ =>
    LeavesBlank.bind (LeavesBlank.of_keeps (slotGeometry_keeps env _)) fun _ => LeavesBlank.changeSurface other _

theorem stage3_leavesBlank : LeavesBlank i (stage3 env) := by
  unfold stage3 checkRatios checkLineBuffer checkFbc checkRotation
  repeat' with_reducible first
    | exact LeavesBlank.pure _
    | exact LeavesBlank.getSurface _
    | exact LeavesBlank.fxOp _
    | exact LeavesBlank.callStage _ _
    | exact LeavesBlank.changeSurface (by assumption) _
    | exact LeavesBlank.changeResults fun _ => ⟨rfl, rfl⟩
    | apply LeavesBlank.forEnabled
    | apply LeavesBlank.bind
    | apply LeavesBlank.ite
    | intro _

theorem stage4_leavesBlank : LeavesBlank i (stage4 env) := by
  unfold stage4 halveUsefulBytes
  repeat' with_reducible first
    | exact LeavesBlank.pure _
    | exact LeavesBlank.getSurface _
    | exact LeavesBlank.fxOp _
    | exact LeavesBlank.callStage _ _
    | exact LeavesBlank.changeSurface (by assumption) _
    | apply LeavesBlank.forEnabled
    | apply LeavesBlank.bind
    | apply LeavesBlank.ite
    | intro _

theorem stage5_leavesBlank : LeavesBlank i (stage5 env) := by
  unfold stage5
  repeat' with_reducible first
    | exact LeavesBlank.getSurface _
    | exact LeavesBlank.fxOp _
    | exact LeavesBlank.callStage _ _
    | exact LeavesBlank.changeSurface (by assumption) _
    | apply LeavesBlank.forEnabled
    | apply LeavesBlank.bind
    | intro _

theorem stage6_leavesBlank : LeavesBlank i (stage6 env) := by
  unfold stage6 setBufferSize mustThrottle throttleBuffer setRequestLimits checkPteRequests
  repeat' with_reducible first
    | exact LeavesBlank.pure _
    | exact LeavesBlank.getSurface _
    | exact LeavesBlank.getResults
    | exact LeavesBlank.fxOp _
    | exact LeavesBlank.callStage _ _
    | exact LeavesBlank.changeSurface (by assumption) _
    | exact LeavesBlank.changeResults fun _ => ⟨rfl, rfl⟩
    | exact LeavesBlank.sumWords _
    | apply LeavesBlank.forEnabled
    | apply LeavesBlank.bind
    | apply LeavesBlank.ite
    | intro _

theorem stage7_leavesBlank : LeavesBlank i (stage7 env) := by
  unfold stage7 availableAt
  repeat' with_reducible first
    | exact LeavesBlank.pure _
    | exact LeavesBlank.getResults
    | exact LeavesBlank.fxOp _
    | exact LeavesBlank.callStage _ _
    | exact LeavesBlank.changeResults fun _ => ⟨rfl, rfl⟩
    | exact LeavesBlank.sumWords _
    | apply LeavesBlank.forTiers
    | apply LeavesBlank.bind
    | intro _

theorem stage8_leavesBlank : LeavesBlank i (stage8 env) := by
  unfold stage8 capabilityGrid gridCell burstTime
  repeat' with_reducible first
    | exact LeavesBlank.pure _
    | exact LeavesBlank.getResults
    | exact LeavesBlank.fxOp _
    | exact LeavesBlank.callStage _ _
    | exact LeavesBlank.changeResults fun _ => ⟨rfl, rfl⟩
    | apply LeavesBlank.forTiers
    | apply LeavesBlank.bind
    | intro _

theorem stage9_leavesBlank (totals : Totals) : LeavesBlank i (stage9 env totals) :=
  LeavesBlank.bind LeavesBlank.getResults fun _ => LeavesBlank.bind (LeavesBlank.changeResults fun _ => ⟨rfl, rfl⟩)
    fun _ => LeavesBlank.pure _

theorem stage10_leavesBlank : LeavesBlank i (stage10 env) := by
  unfold stage10
  repeat' with_reducible first
    | exact LeavesBlank.getResults
    | exact LeavesBlank.fxOp _
    | exact LeavesBlank.callStage _ _
    | exact LeavesBlank.changeResults fun _ => ⟨rfl, rfl⟩
    | apply LeavesBlank.bind
    | intro _

theorem stage11_leavesBlank (noFit : NoFit) : LeavesBlank i (stage11 env noFit) :=
  LeavesBlank.changeResults fun r => by
    unfold setVoltage
    dsimp only
    split <;> exact ⟨rfl, rfl⟩

theorem stage12_leavesBlank : LeavesBlank i (stage12 env) := by
  unfold stage12 setWatermarks burstTime
  repeat' with_reducible first
    | exact LeavesBlank.pure _
    | exact LeavesBlank.getSurface _
    | exact LeavesBlank.getResults
    | exact LeavesBlank.fxOp _
    | exact LeavesBlank.callStage _ _
    | exact LeavesBlank.changeSurface (by assumption) _
    | apply LeavesBlank.forEnabled
    | apply LeavesBlank.bind
    | apply LeavesBlank.ite
    | intro _

theorem metric_leavesBlank (f : Config.Ext → Config.MetricReads → Config.StageProgram) (set : W64 → Results → Results)
    (h : ∀ v r, (set v r).surfaces = r.surfaces ∧ (set v r).ext = r.ext) : LeavesBlank i (metric env f set) :=
  LeavesBlank.bind LeavesBlank.getResults fun _ => LeavesBlank.bind (LeavesBlank.callStage _ _) fun v =>
    LeavesBlank.changeResults (h v)

theorem stage13_leavesBlank : LeavesBlank i (stage13 env) := by
  unfold stage13
  repeat' with_reducible first
    | exact metric_leavesBlank env i _ _ fun _ _ => ⟨rfl, rfl⟩
    | apply LeavesBlank.bind
    | intro _

end

/-! ## The finished RESULTS -/

/-- A slot that stage 1 does not enable keeps the class of a cleared RESULTS. -/
theorem classify_of_disabled {env : CalcEnv} {i : Slot} (h : (classify env i).enable = false) : classify env i = {} := by
  have underlay : ∀ u plane, (classifyUnderlay env u plane).enable = false → classifyUnderlay env u plane = {} := by
    intro u plane
    cases plane with
    | luma =>
      rw [classifyUnderlay_luma]
      split
      · exact nofun
      · exact fun _ => rfl
    | chroma =>
      rw [classifyUnderlay_chroma]
      split
      · exact nofun
      · exact fun _ => rfl
  have graphics : ∀ k, (classifyGraphics env k).enable = false → classifyGraphics env k = {} := by
    intro k
    unfold classifyGraphics
    split
    · exact nofun
    · exact fun _ => rfl
  have writeback : ∀ t, (classifyWriteback env t).enable = false → classifyWriteback env t = {} := by
    intro t
    unfold classifyWriteback
    split
    · exact nofun
    · exact fun _ => rfl
  match i with
  | 0 | 1 | 2 | 3 => exact underlay _ _ h
  | 4 | 5 | 6 | 7 | 8 | 9 => exact graphics _ h
  | 10 | 11 => exact writeback _ h

theorem blank_afterStage1 (env : CalcEnv) (draws : Nat) {i : Slot} (disabled : (classify env i).enable = false) :
    Blank i (afterStage1 env draws).results := by
  refine ⟨?_, fun _ _ _ => rfl⟩
  have cls := classify_of_disabled disabled
  simp [afterStage1, stage1, slotView, CalcState.start, Results.zero, cls]

theorem resultsOf_blank (env : CalcEnv) (draws : Nat) {i : Slot} (disabled : (classify env i).enable = false) :
    Blank i (resultsOf env draws) := by
  have after2 : Blank i (afterStage2 env draws).results := by
    rw [afterStage2_eq]
    exact stage2_leavesBlank env i _ (blank_afterStage1 env draws disabled)
  have after3 : Blank i (afterStage3 env draws).results := by
    rw [afterStage3]
    exact stage3_leavesBlank env i _ after2
  have after4 : Blank i (afterStage4 env draws).results := by
    rw [afterStage4]
    exact stage4_leavesBlank env i _ after3
  have after5 : Blank i (afterStage5 env draws).results := by
    rw [afterStage5]
    exact stage5_leavesBlank env i _ after4
  have after6 : Blank i (afterStage6 env draws).results := by
    rw [afterStage6]
    exact stage6_leavesBlank env i _ after5
  have after7 : Blank i (afterStage7 env draws).2.results := by
    rw [afterStage7]
    exact stage7_leavesBlank env i _ after6
  have after8 : Blank i (afterStage8 env draws).results := by
    rw [afterStage8]
    exact stage8_leavesBlank env i _ after7
  have after9 : Blank i (afterStage9 env draws).2.results := by
    rw [afterStage9]
    exact stage9_leavesBlank env i _ _ after8
  have after10 : Blank i (afterStage10 env draws).results := by
    rw [afterStage10]
    exact stage10_leavesBlank env i _ after9
  have after11 : Blank i (afterStage11 env draws).results := by
    rw [afterStage11]
    exact stage11_leavesBlank env i _ _ after10
  rw [resultsOf_eq_stage13]
  exact stage13_leavesBlank env i _ (stage12_leavesBlank env i _ after11)

theorem Surface.array_blank : ∀ j, j < 36 → ({} : Surface).array j = 0 := by decide

end Sys2Proof.Machine

namespace Sys2Proof

open Machine

/-- Settles O42: the slot is blank after stage 1 and stays so, and a blank slot's 120 arrays are 0. -/
theorem disabledSlotsAreZero : Obligations.DisabledSlotsAreZero := by
  intro env draws i disabled j hj
  have cls := resultsOf_cls env draws i
  have blanks := resultsOf_blank env draws (i := i)
  generalize resultsOf env draws = r at disabled cls blanks ⊢
  rw [surface_eq_slotView, cls] at disabled
  have blank := blanks disabled
  by_cases array : j < 36
  · rw [r.slot_array i array, surface_eq_slotView, blank.surface]
    exact Surface.array_blank j array
  · rw [r.slot_extension i (by omega)]
    exact blank.ext j (by omega) hj

end Sys2Proof
end
